-- ==== Sys2Proof/Word.lean ====
section
/-! DEFINITION. The unit of data of the block: the byte (00_scope.md R7, R8). Addresses, lengths and counts are
unsigned integers of a stated width (`BitVec`) where they are registers, and natural numbers where the spec calculates exactly. -/

namespace Sys2Proof

/-- A byte. Bit 0 is its least significant bit (R7). -/
abbrev Byte := BitVec 8

end Sys2Proof
end

