-- ==== Sys2Proof/Syntax.lean ====
section
/-! DEFINITION. The instructions: the twelve host operations (30_encoding.md R88) and the seven SPI command frames (R82),
one constructor for each row of spec/opcode_table.json. -/

namespace Sys2Proof

/-- One row of the opcode table each. The host operations carry the operands of R88's column "operands used" and no unused field
(R89); the frames carry the fields of R81. -/
inductive Instr where
  /-- `READ_STATUS` (R111). -/
  | readStatus
  /-- `WRITE_ENABLE` (R112). -/
  | writeEnable
  /-- `WRITE_DISABLE` (R113). -/
  | writeDisable
  /-- `READ_ID` (R114). -/
  | readId
  /-- `BULK_ERASE` (R132). -/
  | bulkErase
  /-- `WRITE_PAGE addr, len` (R133). -/
  | writePage (addr : BitVec 24) (len : BitVec 32)
  /-- `READ_PAGE addr, len` (R134). -/
  | readPage (addr : BitVec 24) (len : BitVec 32)
  /-- `REVERSE_BITS byte` (R145). -/
  | reverseBits (b : Byte)
  /-- `WRITE_ALL len` (R162). -/
  | writeAll (len : BitVec 32)
  /-- `READ_ALL len` (R163). -/
  | readAll (len : BitVec 32)
  /-- `IS_EMPTY` (R164). -/
  | isEmpty
  /-- `PROGRAM_AND_VERIFY len` (R165). -/
  | programAndVerify (len : BitVec 32)
  /-- Frame `RDSR`, format F-OPR, opcode `0x05`. -/
  | rdsr
  /-- Frame `WREN`, format F-OP, opcode `0x06`. -/
  | wren
  /-- Frame `WRDI`, format F-OP, opcode `0x04`. -/
  | wrdi
  /-- Frame `RDID`, format F-OPR, opcode `0x9F`. -/
  | rdid
  /-- Frame `BE`, format F-OP, opcode `0xC7`. -/
  | be
  /-- Frame `PP`, format F-AP, opcode `0x02`: the payload is the bytes as they are sent (R84). -/
  | pp (addr : BitVec 24) (payload : List Byte)
  /-- Frame `READ`, format F-AR, opcode `0x03`: the header; the read length is no part of the frame (R81). -/
  | read (addr : BitVec 24)
deriving DecidableEq, Repr

/-- Whether the instruction is one of the seven frames the block sends (R82), not an operation the host presents (R88). -/
def Instr.isFrame : Instr → Bool
  | .readStatus | .writeEnable | .writeDisable | .readId | .bulkErase => false
  | .writePage _ _ | .readPage _ _ | .reverseBits _ | .writeAll _ | .readAll _ => false
  | .isEmpty | .programAndVerify _ => false
  | .rdsr | .wren | .wrdi | .rdid | .be | .pp _ _ | .read _ => true

end Sys2Proof
end

