-- ==== Sys2Proof/Decode.lean ====
section
/-! DEFINITION. The two encodings (30_encoding.md): the host's 64-bit command word (R87 to R90) and the SPI command frames
(R80 to R86). The decoder first, total and rejecting by name, then the encoder, written from the same tables. -/

namespace Sys2Proof

/-- An encoded instruction: a command word as the host presents it, or the bytes of a frame as they are handed to the transport. -/
inductive Code where
  | command (w : BitVec 64)
  | frame (bytes : List Byte)
deriving DecidableEq, Repr

/-- Why the decoder rejects. The spec gives no decoder; that these are refused is the model's reading (DEDUCED, log entry 22). -/
inductive DecodeError where
  /-- R90: an operation code from `0x0C` to `0xFF`. -/
  | reservedOperation (op : Byte)
  /-- R80: a frame has at least its opcode byte. -/
  | emptyFrame
  /-- R82, R86: a first byte that is none of the seven opcodes. -/
  | unknownOpcode (op : Byte)
  /-- R85: a frame that does not have the length of its format. -/
  | wrongLength (op : Byte)
deriving DecidableEq, Repr

/-! ## The decoder -/

/-- R87: `op`, bits 63:56 of the command word. -/
def opField (w : BitVec 64) : Byte := w.extractLsb' 56 8
/-- R87: `addr`, bits 55:32 of the command word. -/
def addrField (w : BitVec 64) : BitVec 24 := w.extractLsb' 32 24
/-- R87: `arg`, bits 31:0 of the command word. -/
def argField (w : BitVec 64) : BitVec 32 := w.extractLsb' 0 32

/-- R88 to R90: the operation codes; an unused field is ignored; a reserved code is rejected. -/
def decodeCommand (w : BitVec 64) : Except DecodeError Instr :=
  match (opField w).toNat with
  | 0x00 => .ok .readStatus
  | 0x01 => .ok .writeEnable
  | 0x02 => .ok .writeDisable
  | 0x03 => .ok .readId
  | 0x04 => .ok .bulkErase
  | 0x05 => .ok (.writePage (addrField w) (argField w))
  | 0x06 => .ok (.readPage (addrField w) (argField w))
  | 0x07 => .ok (.reverseBits ((argField w).extractLsb' 0 8))
  | 0x08 => .ok (.writeAll (argField w))
  | 0x09 => .ok (.readAll (argField w))
  | 0x0A => .ok .isEmpty
  | 0x0B => .ok (.programAndVerify (argField w))
  | _ => .error (.reservedOperation (opField w))

/-- R83: three address bytes, the most significant first, make the 24-bit address. -/
def addrOfBytes (a2 a1 a0 : Byte) : BitVec 24 :=
  a2.setWidth 24 <<< 16 ||| a1.setWidth 24 <<< 8 ||| a0.setWidth 24

/-- R80 to R86: the opcode byte alone decides the format; the length must be the format's. What is refused is the model's reading (DEDUCED,
log entry 22). -/
def decodeFrame (bytes : List Byte) : Except DecodeError Instr :=
  match bytes with
  | [] => .error .emptyFrame
  | op :: rest =>
    match op.toNat, rest with
    | 0x05, [] => .ok .rdsr
    | 0x06, [] => .ok .wren
    | 0x04, [] => .ok .wrdi
    | 0x9F, [] => .ok .rdid
    | 0xC7, [] => .ok .be
    | 0x02, a2 :: a1 :: a0 :: payload => .ok (.pp (addrOfBytes a2 a1 a0) payload)
    | 0x03, [a2, a1, a0] => .ok (.read (addrOfBytes a2 a1 a0))
    | 0x05, _ | 0x06, _ | 0x04, _ | 0x9F, _ | 0xC7, _ | 0x02, _ | 0x03, _ => .error (.wrongLength op)
    | _, _ => .error (.unknownOpcode op)

/-- The decoder: what a command word or a frame stands for. -/
def decode : Code → Except DecodeError Instr
  | .command w => decodeCommand w
  | .frame bytes => decodeFrame bytes

/-! ## The encoder -/

/-- R87: the command word of an operation code, an address and an argument. -/
def commandWord (op : Byte) (addr : BitVec 24) (arg : BitVec 32) : BitVec 64 :=
  op.setWidth 64 <<< 56 ||| addr.setWidth 64 <<< 32 ||| arg.setWidth 64

/-- R83, R60: the three address bytes in sending order, `a[23:16]`, `a[15:8]`, `a[7:0]`. -/
def addrBytes (a : BitVec 24) : List Byte :=
  [a.extractLsb' 16 8, a.extractLsb' 8 8, a.extractLsb' 0 8]

/-- R82: the opcode bytes. -/
def opRdsr : Byte := 0x05
/-- R82. -/
def opWren : Byte := 0x06
/-- R82. -/
def opWrdi : Byte := 0x04
/-- R82. -/
def opRdid : Byte := 0x9F
/-- R82. -/
def opBe : Byte := 0xC7
/-- R82. -/
def opPp : Byte := 0x02
/-- R82. -/
def opRead : Byte := 0x03

/-- R81, format F-AP: the program frame. -/
def ppFrame (a : BitVec 24) (payload : List Byte) : List Byte := opPp :: (addrBytes a ++ payload)

/-- R81, format F-AR: the header of the read frame. -/
def readFrame (a : BitVec 24) : List Byte := opRead :: addrBytes a

/-- The code of an instruction: R88 for an operation (unused fields zero, R94), R82 for a frame. -/
def encode : Instr → Code
  | .readStatus => .command (commandWord 0x00 0 0)
  | .writeEnable => .command (commandWord 0x01 0 0)
  | .writeDisable => .command (commandWord 0x02 0 0)
  | .readId => .command (commandWord 0x03 0 0)
  | .bulkErase => .command (commandWord 0x04 0 0)
  | .writePage a n => .command (commandWord 0x05 a n)
  | .readPage a n => .command (commandWord 0x06 a n)
  | .reverseBits b => .command (commandWord 0x07 0 (b.setWidth 32))
  | .writeAll n => .command (commandWord 0x08 0 n)
  | .readAll n => .command (commandWord 0x09 0 n)
  | .isEmpty => .command (commandWord 0x0A 0 0)
  | .programAndVerify n => .command (commandWord 0x0B 0 n)
  | .rdsr => .frame [opRdsr]
  | .wren => .frame [opWren]
  | .wrdi => .frame [opWrdi]
  | .rdid => .frame [opRdid]
  | .be => .frame [opBe]
  | .pp a payload => .frame (ppFrame a payload)
  | .read a => .frame (readFrame a)

/-! ## Table words -/

/-- The `k` low bytes of a number, the least significant first. -/
def lowBytes : Nat → Nat → List Byte
  | 0, _ => []
  | k + 1, w => BitVec.ofNat 8 w :: lowBytes k (w / 256)

/-- The bytes of a frame given by its first `nbits` bits: the first byte sent is the least significant. A frame of format F-AP or
F-AR that is given shorter than its header is completed by zero address bytes, with no payload. -/
def frameOfTableWord (nbits w : Nat) : List Byte :=
  let bytes := lowBytes (nbits / 8) w
  if bytes.head? = some opPp ∨ bytes.head? = some opRead then
    bytes ++ List.replicate (4 - bytes.length) 0
  else bytes

/-- A table word of 64 bits is a command word; a shorter one is the beginning of a frame. -/
def codeOfTableWord (nbits w : Nat) : Code :=
  if nbits = 64 then .command (BitVec.ofNat 64 w) else .frame (frameOfTableWord nbits w)

/-- The instruction the decoder reads from a table word. -/
def decodeTableWord (nbits w : Nat) : Option Instr := (decode (codeOfTableWord nbits w)).toOption

/-! ## Assembly text (R94) and pseudo-operations (R95) -/

/-- R94: the mnemonic. For the frames, the labels of R82. -/
def Instr.mnemonic : Instr → String
  | .readStatus => "READ_STATUS"
  | .writeEnable => "WRITE_ENABLE"
  | .writeDisable => "WRITE_DISABLE"
  | .readId => "READ_ID"
  | .bulkErase => "BULK_ERASE"
  | .writePage _ _ => "WRITE_PAGE"
  | .readPage _ _ => "READ_PAGE"
  | .reverseBits _ => "REVERSE_BITS"
  | .writeAll _ => "WRITE_ALL"
  | .readAll _ => "READ_ALL"
  | .isEmpty => "IS_EMPTY"
  | .programAndVerify _ => "PROGRAM_AND_VERIFY"
  | .rdsr => "RDSR"
  | .wren => "WREN"
  | .wrdi => "WRDI"
  | .rdid => "RDID"
  | .be => "BE"
  | .pp _ _ => "PP"
  | .read _ => "READ"

/-- R94: the operands of an operation's line, in the order they are written. -/
def Instr.operands : Instr → List Nat
  | .writePage a n | .readPage a n => [a.toNat, n.toNat]
  | .reverseBits b => [b.toNat]
  | .writeAll n | .readAll n | .programAndVerify n => [n.toNat]
  | .pp a payload => a.toNat :: payload.map BitVec.toNat
  | .read a => [a.toNat]
  | .readStatus | .writeEnable | .writeDisable | .readId | .bulkErase | .isEmpty => []
  | .rdsr | .wren | .wrdi | .rdid | .be => []

/-- R94: one line of assembly: the mnemonic, then the operands separated by commas, in decimal. -/
def Instr.assembly (i : Instr) : String :=
  match i.operands with
  | [] => i.mnemonic
  | ops => i.mnemonic ++ " " ++ ", ".intercalate (ops.map Nat.repr)

/-- R95: the three pseudo-operations. -/
inductive Pseudo where
  | isBusy
  | isWriteEnabled
  | waitReady
deriving DecidableEq, Repr

/-- R95: the operation a pseudo-operation issues (`waitReady` issues it again and again). -/
def Pseudo.expansion : Pseudo → Instr
  | .isBusy | .isWriteEnabled | .waitReady => .readStatus

/-- R95: what the host reads off `VALUE` after it: for `waitReady`, whether it is over. -/
def Pseudo.test : Pseudo → Byte → Bool
  | .isBusy, v => v.getLsbD 0
  | .isWriteEnabled, v => v.getLsbD 1
  | .waitReady, v => !v.getLsbD 0

end Sys2Proof
end

