-- ==== Sys2Proof/Config.lean ====
section
/-! DEFINITION. The configuration `CFG` (10_state.md R20 to R27) and the free values: what the spec leaves open and the
machine goes on with. A free value is an opaque constant without a body, so no proof can see what it is; a claim about one holds
whatever it is. -/

namespace Sys2Proof

/-- R20: the configuration record, fixed before reset is released and written by no operation, event or error.
It stands in `State` (as its field `cfg`), so that a statement about every state is a statement about every configuration (log entry 1). -/
structure Cfg where
  /-- R21: the device's total capacity in bytes. -/
  CAPACITY : Nat
  /-- R22: the largest number of payload bytes in one page operation. -/
  PACKET_SIZE : Nat
  /-- R23: the interval between polls after a bulk erase, in milliseconds; an argument of `Delay` only. -/
  T_ERASE_POLL : Nat
  /-- R24: the wait before the first poll after a page program, in milliseconds; an argument of `Delay` only. -/
  T_PAGE_SETTLE : Nat
  /-- R25: bit-swap mode. -/
  BITSWAP : Bool
  /-- R26: the original program's literal write-enable check, which never fails. -/
  WEL_CHECK_LITERAL : Bool
deriving DecidableEq, Repr

/-- R21 to R26: the defaults. -/
def Cfg.standard : Cfg :=
  { CAPACITY := 4194304, PACKET_SIZE := 256, T_ERASE_POLL := 500, T_PAGE_SETTLE := 1,
    BITSWAP := false, WEL_CHECK_LITERAL := false }

/-- R27: the number of identification bytes, a constant and no parameter. -/
def Cfg.ID_LEN : Nat := 3

/-- R237: the constraints the host must have met before reset is released. The block checks none of them. -/
abbrev Cfg.wf (c : Cfg) : Prop :=
  1 ≤ c.PACKET_SIZE ∧ c.PACKET_SIZE ≤ c.CAPACITY ∧ c.CAPACITY ≤ 2 ^ 24

namespace Config

/-- R56: the count of the transport's `k`-th call, where the state lists no answer for it (log entry 4). -/
opaque freeCount : Nat → Nat
/-- R56: the result of the transport's `k`-th call, where the state lists no answer for it (log entry 4). -/
opaque freeOk : Nat → Bool
/-- R54, U4: byte `j` of the data of the transport's `k`-th call, where the answer supplies none (log entries 4 and 6). -/
opaque freeData : Nat → Nat → Byte
/-- R32: `VALUE` after the `k`-th completion, where the operation defines none (log entry 7). -/
opaque freeValue : Nat → Byte
/-- R32: `FLAG` after the `k`-th completion, where the operation ended `Ok` and defines none (log entry 7). -/
opaque freeFlag : Nat → Bool
/-- R59, U9: byte `j` of `RBUF` after the `k`-th operation, where that operation failed (log entry 8). -/
opaque freeRbuf : Nat → Nat → Byte
/-- R247: byte `j` of `WBUF` during the `k`-th operation, where the host supplied none (log entry 9). -/
opaque freeWbuf : Nat → Nat → Byte
/-- R38, R230: working register number `j` after the reset drawn as the `k`-th (log entry 10). -/
opaque freeReg : Nat → Nat → BitVec 32
/-- R167: the quotient of the percentage by a total of 0, a division no run makes (log entry 11). -/
opaque freePercent : Nat → Nat

end Config

end Sys2Proof
end

