-- ==== Sys2Proof/Machine/State.lean ====
section
/-! DEFINITION. The state of the machine as plain data: the sequencer's own state (10_state.md R28 to R33), the transfer buffers
(20_memory.md R52), and the environment it talks to (R34, R56): the host's command port and reset line, the transport with what
stands behind it, and the record of external actions (00_scope.md R11). -/

namespace Sys2Proof.Machine

/-! ## Memory -/

/-- A byte-addressed space (R50, R52) in canonical form: `cells` has strictly rising addresses and no entry equal to what an
unlisted address reads as, which is `fill`. `none` means no known value. -/
structure Memory where
  fill : Option Byte
  cells : List Host.Cell
deriving DecidableEq, Repr

/-- The canonical form. -/
abbrev Memory.wf (m : Memory) : Prop :=
  m.cells.Pairwise (fun c d => c.1 < d.1) ∧ ∀ c ∈ m.cells, m.fill ≠ some c.2

/-- A space of which nothing is known yet. -/
def Memory.unknown : Memory := { fill := none, cells := [] }

/-! ## Results, events and actions -/

/-- R190: the six errors. -/
inductive Error where
  | transportError
  | deviceBusy
  | writeEnableNotSet
  | lengthMismatch
  | sizeExceeded
  | illegalCommand
deriving DecidableEq, Repr

/-- R92: the outcome of an operation. -/
inductive Result where
  | ok
  | fail (e : Error)
deriving DecidableEq, Repr

/-- R93: the events sent to the Reporting Sink. -/
inductive Event where
  | spin
  | progress (pct : BitVec 7)
deriving DecidableEq, Repr

/-- R11: one external action of the trace, with its arguments and its answers. -/
inductive Action where
  /-- R53: `XferWrite(bytes, csA, csR) -> (cnt, ok)`. -/
  | write (bytes : List Byte) (csA csR : Bool) (cnt : Nat) (ok : Bool)
  /-- R54: `XferRead(n, csA, csR) -> (data, cnt, ok)`. -/
  | read (n : Nat) (csA csR : Bool) (data : List Byte) (cnt : Nat) (ok : Bool)
  /-- R210: `Delay(t)`. -/
  | delay (t : Nat)
  /-- R213: `Emit(ev)`. -/
  | emit (ev : Event)
  /-- R58: `MemRead(WBUF, i, n)`. -/
  | memRead (i n : Nat)
  /-- R59: `MemWrite(RBUF, i, len(v), v)`. -/
  | memWrite (i : Nat) (v : List Byte)
  /-- R96: `Done`, with the fields of the completion record that the operation defines. -/
  | done (result : Result) (value : Option Byte) (flag : Option Bool)
deriving DecidableEq, Repr

/-! ## Control state -/

/-- R30: the routines are exactly the twelve operations of R88. -/
inductive Routine where
  | readStatus
  | writeEnable
  | writeDisable
  | readId
  | bulkErase
  | writePage
  | readPage
  | reverseBits
  | writeAll
  | readAll
  | isEmpty
  | programAndVerify
deriving DecidableEq, Repr

/-- R163: where a chunk that `READ_ALL` has read goes. -/
inductive Sink where
  | toRbuf
  | toFF
  | toEQ
deriving DecidableEq, Repr

/-- R30: the local values of one activation, parameters and temporaries, under the names the pseudocode gives them (`len` is its
`L`). Each is written before it is read within one activation. -/
structure Locals where
  a : BitVec 32 := 0
  i : Nat := 0
  n : Nat := 0
  len : Nat := 0
  b : Byte := 0
  sink : Sink := .toRbuf
  s : Byte := 0
  cnt : Nat := 0
  ok : Bool := false
  d : List Byte := []
  chunk : List Byte := []
  frame : List Byte := []
  out : List Byte := []
  p : Nat := 0
deriving DecidableEq, Repr

/-- R30: one frame of the control stack: a routine, the number of its current step, the activation's local values. While a
routine it has called runs, the step is the `call`. -/
structure Activation where
  routine : Routine
  step : Nat
  loc : Locals := {}
deriving DecidableEq, Repr

/-- R28: the working registers. -/
structure Regs where
  ADDR : BitVec 32
  REMAIN : BitVec 32
  TOTAL : BitVec 32
  DONE : BitVec 32
  LASTPCT : BitVec 7
  STATUS : Byte
  ALLFF : Bool
  EQ : Bool
deriving DecidableEq, Repr

/-! ## The environment -/

/-- R34 (c): the chip-select line as the calls so far leave it. After a failed call nothing is known of it. -/
inductive Line where
  | asserted
  | released
  | unknown
deriving DecidableEq, Repr

/-- R53, R54: a transport call. -/
inductive Call where
  | write (bytes : List Byte) (csA csR : Bool)
  | read (n : Nat) (csA csR : Bool)
deriving DecidableEq, Repr

/-- R56, R252: what the transport does with a call: it returns (`data` is used by a read call only), or it never returns. -/
inductive Answer where
  | returned (cnt : Nat) (ok : Bool) (data : List Byte)
  | neverReturns
deriving DecidableEq, Repr

/-- R34 (a), (b), R50, R72: the flash device behind the transport, as the reference device SimDev(ke, kp) of 95_test_vectors.md
section 0 holds it. `busy` is how many status reads will still show it busy; `held` is what it has received since chip-select
was asserted; `id` is its identification. -/
structure Device where
  flash : Memory
  wel : Bool
  busy : Nat
  ke : Nat
  kp : Nat
  id : List Byte
  held : List Byte
deriving DecidableEq, Repr

/-- R3, R14, R56: who answers the transport calls. `script`: the listed answers in order, then free values; every behaviour of
the transport is one of these. `device`: the reference device, one deterministic oracle and no constraint on the block. -/
inductive Oracle where
  | script (answers : List Answer)
  | device (d : Device)
deriving DecidableEq, Repr

/-- R87: what the host presents: a command word and, where it hands over a write buffer with it, that buffer's bytes from index 0. -/
structure Command where
  word : BitVec 64
  image : Option (List Byte) := none
deriving DecidableEq, Repr

/-! ## The state -/

/-- The machine and its environment. The first group is the block's own state, the second the environment's, the third the
model's own. -/
structure State where
  /-- R20: the configuration; no step writes it. -/
  cfg : Cfg
  /-- R28: the working registers. -/
  x : Regs
  /-- R30: the control stack, the running routine first; empty is IDLE. -/
  pc : List Activation
  /-- R32, R92: the result code of the last operation. -/
  RESULT : BitVec 4
  /-- R32: the byte result of the last operation. -/
  VALUE : Byte
  /-- R32: the one-bit result of the last operation. -/
  FLAG : Bool
  /-- R52: the host's write Transfer Buffer. -/
  WBUF : Memory
  /-- R52: the host's read Transfer Buffer. -/
  RBUF : Memory
  /-- R34 (c): the chip-select line; the block never reads it. -/
  chipSelect : Line
  /-- R31, R87: the commands the host presents, the first of them now, each of the others once those before it are done. -/
  port : List Command
  /-- R230: the level of the reset input at each of the coming steps; not asserted after the last one listed. -/
  resetLine : List Bool
  /-- R56: the transport and what stands behind it. -/
  oracle : Oracle
  /-- R11: the external actions so far, the oldest first. -/
  trace : List Action
  /-- The model's own: how many transport calls have returned; the counter the oracle's free values are taken at. -/
  calls : Nat
  /-- The model's own: how many operations have completed or been cut short; the counter the other free values are taken at. -/
  draws : Nat
deriving DecidableEq, Repr

/-- R38: the machine right after reset: IDLE, and nothing presented. The spec leaves every register unspecified; the zeros are
log entry 10. Nothing is known of the transport, the device, the line and the buffers. -/
def State.reset : State :=
  { cfg := Cfg.standard
    x := { ADDR := 0, REMAIN := 0, TOTAL := 0, DONE := 0, LASTPCT := 0, STATUS := 0, ALLFF := false, EQ := false }
    pc := []
    RESULT := 0
    VALUE := 0
    FLAG := false
    WBUF := Memory.unknown
    RBUF := Memory.unknown
    chipSelect := .unknown
    port := []
    resetLine := []
    oracle := .script []
    trace := []
    calls := 0
    draws := 0 }

/-! ## How a step can stop -/

/-- The machine stops. No rule of the spec stops the block: both reasons are control states that no run from an accepted command
reaches (log entry 12). -/
inductive Fault where
  /-- Raised by the sequencer when the running activation's step is no numbered step of its routine. Safe: no run reaches it. -/
  | noSuchStep (r : Routine) (k : Nat)
  /-- Raised by the sequencer when `WRITE_PAGE` is about to send bytes that are none of the seven frames (R80). Safe: no run reaches it. -/
  | notAFrame (bytes : List Byte)
deriving DecidableEq, Repr

/-- No meaning for the instruction. -/
inductive Refusal where
  /-- Raised by an arm of `exec` whose instruction has no meaning yet; no arm is left so. Safe. -/
  | notModelled (mnemonic : String)
deriving DecidableEq, Repr

end Sys2Proof.Machine
end

