-- ==== Sys2Proof/Machine/Flags.lean ====
section
/-! DEFINITION. The flags: the two bits of the device's Status Register that the block tests (10_state.md R33, 30_encoding.md R97),
the decisions taken on them (40_status_and_control_ops.md R115), the running conjunctions `ALLFF` and `EQ` (R163), the
percentage (R166), and the codes of results and events (R92, R93). -/

namespace Sys2Proof.Machine

/-- R115: bit 0 of the status byte, "operation in progress". -/
def busy (s : Byte) : Bool := s.getLsbD 0

/-- R115: bit 1 of the status byte, "write enable latch set". -/
def wel (s : Byte) : Bool := s.getLsbD 1

/-- R115, R26: whether the write-enable confirmation fails on the status byte `s`; never with the literal check. -/
def confirmFails (c : Cfg) (s : Byte) : Bool := !c.WEL_CHECK_LITERAL && !wel s

/-- R163, sink `TO_FF`: whether every byte is the erased sentinel (R13). -/
def allErased (bytes : List Byte) : Bool := bytes.all (fun b => b == 0xFF#8)

/-- R166: the integer percentage complete. R167: the division is by at least 1; a total of 0, which no run divides by, gives a
free value (log entry 11). -/
def percent (done total : Nat) : Nat :=
  if total = 0 then Config.freePercent done else 100 * done / total

/-- R92: the number of an error. -/
def Error.code : Error → BitVec 4
  | .transportError => 0x1
  | .deviceBusy => 0x2
  | .writeEnableNotSet => 0x3
  | .lengthMismatch => 0x4
  | .sizeExceeded => 0x5
  | .illegalCommand => 0x6

/-- R92: the result code. -/
def Result.code : Result → BitVec 4
  | .ok => 0x0
  | .fail e => e.code

/-- R93: the kind of an event. -/
def Event.kind : Event → Nat
  | .spin => 0
  | .progress _ => 1

/-- R93: the percentage field of an event, sent as 0 by `Spin`. -/
def Event.pct : Event → BitVec 7
  | .spin => 0
  | .progress p => p

end Sys2Proof.Machine
end

