-- ==== Sys2Proof/Machine/Memory.lean ====
section
/-! DEFINITION. The operations over a byte-addressed space in canonical form: the Transfer Buffers (20_memory.md R52, R58, R59) and
the flash of the reference device. One byte at a time; a sequence is written in ascending index order (R61). -/

namespace Sys2Proof.Machine

/-- The value listed for an address. -/
def lookupCell : List Host.Cell → Nat → Option Byte
  | [], _ => none
  | c :: r, a => if c.1 = a then some c.2 else lookupCell r a

/-- The listing with the address `a` at `b`, kept rising. -/
def insertCell : List Host.Cell → Nat → Byte → List Host.Cell
  | [], a, b => [(a, b)]
  | c :: r, a, b =>
    if a < c.1 then (a, b) :: c :: r
    else if a = c.1 then (a, b) :: r
    else c :: insertCell r a b

/-- The listing without the address `a`. -/
def eraseCell : List Host.Cell → Nat → List Host.Cell
  | [], _ => []
  | c :: r, a => if c.1 = a then r else c :: eraseCell r a

/-- One byte: the listed value, else what unlisted addresses read as. -/
def Memory.read (m : Memory) (a : Nat) : Option Byte := (lookupCell m.cells a).or m.fill

/-- One byte stored. -/
def Memory.write (m : Memory) (a : Nat) (b : Byte) : Memory :=
  if m.fill = some b then { m with cells := eraseCell m.cells a }
  else { m with cells := insertCell m.cells a b }

/-- The bytes stored at `a`, `a + 1`, … -/
def Memory.writeBytes (m : Memory) (a : Nat) : List Byte → Memory
  | [] => m
  | b :: r => (m.write a b).writeBytes (a + 1) r

/-- The buffer that holds exactly the given bytes from index 0. -/
def Memory.ofBytes (bytes : List Byte) : Memory := Memory.unknown.writeBytes 0 bytes

/-- R58: the `n` bytes of `WBUF` from index `i`, during operation number `k`: a byte the host supplied none for is a free value, the
same at each of its uses (log entry 9). -/
def readWbuf (k : Nat) (m : Memory) (i n : Nat) : List Byte :=
  (List.range n).map fun j => (m.read (i + j)).getD (Config.freeWbuf k (i + j))

/-- R59, U9: the first `n` bytes of `RBUF` turned into free values, at the end of operation number `k`. -/
def drawRbuf (k : Nat) (m : Memory) (n : Nat) : Memory :=
  m.writeBytes 0 ((List.range n).map fun j => Config.freeRbuf k j)

end Sys2Proof.Machine
end

