-- ==== Sys2Proof/Machine/Device.lean ====
section
/-! DEFINITION. Who answers the transport calls (20_memory.md R53 to R56). `Device.respond` is the reference device SimDev(ke, kp) of
95_test_vectors.md section 0, one oracle among all (00_scope.md R14): the flash address space, the busy bit and the
write-enable latch with the effects R66 and R72 give the frames. Where a call leaves what that device is defined for (a range
outside the capacity, a read no header asked for), the device answers nothing and the oracle knows nothing of it from then on
(U7: any value; log entry 5). -/

namespace Sys2Proof.Machine

/-- An erase or program starts and stays visible for `k` status reads; when it ends the latch clears (R12, R66). -/
def Device.start (k : Nat) (d : Device) : Device := { d with busy := k, wel := decide (k ≠ 0) }

/-- Whether the device takes a write-class command: the latch is set and it is not busy. -/
def Device.takesWrite (d : Device) : Bool := d.wel && d.busy == 0

/-- The command frame a released chip-select ends. -/
def Device.command (c : Cfg) (frame : List Byte) (d : Device) : Option Device :=
  match decodeFrame frame with
  | .ok .wren => some { d with wel := true }
  | .ok .wrdi => some { d with wel := false }
  | .ok .be =>
    some (if d.takesWrite then ({ d with flash := { fill := some 0xFF, cells := [] } } : Device).start d.ke else d)
  | .ok (.pp a payload) =>
    if a.toNat + payload.length ≤ c.CAPACITY then
      some (if d.takesWrite then
        ({ d with flash := d.flash.writeBytes a.toNat payload } : Device).start d.kp else d)
    else none
  | _ => none

/-- The status byte the device shows (R97), bits 7 to 2 zero. -/
def Device.statusByte (d : Device) : Byte :=
  (if d.busy = 0 then 0x00#8 else 0x01#8) ||| (if d.wel then 0x02#8 else 0x00#8)

/-- After a status read: the countdown goes on, and the latch clears where it ends. -/
def Device.afterStatus (d : Device) : Device :=
  match d.busy with
  | 0 => d
  | k + 1 => { d with busy := k, wel := d.wel && decide (k ≠ 0) }

/-- The read phase of the header the device holds. `call` is the number of the call, for bytes of the flash of which nothing is known. -/
def Device.readPhase (c : Cfg) (call n : Nat) (d : Device) : Option (List Byte × Device) :=
  match decodeFrame d.held with
  | .ok .rdsr => if n = 1 then some ([d.statusByte], d.afterStatus) else none
  | .ok .rdid => if n = d.id.length then some (d.id, d) else none
  | .ok (.read a) =>
    if a.toNat + n ≤ c.CAPACITY then
      some ((List.range n).map (fun k => (d.flash.read (a.toNat + k)).getD (Config.freeData call k)), d)
    else none
  | _ => none

/-- The device's answer to one transport call, in full count and with success, and the device after it. -/
def Device.respond (c : Cfg) (call : Nat) (d : Device) : Call → Option (Answer × Device)
  | .write bytes csA csR =>
    let frame := (if csA then [] else d.held) ++ bytes
    if csR then
      (d.command c frame).map fun d' => (.returned bytes.length true [], { d' with held := [] })
    else some (.returned bytes.length true [], { d with held := frame })
  | .read n csA csR =>
    if csA = false ∧ csR = true then
      (d.readPhase c call n).map fun r => (.returned n true r.1, { r.2 with held := [] })
    else none

/-- R56: the answer that nothing constrains. -/
def freeAnswer (call : Nat) : Answer := .returned (Config.freeCount call) (Config.freeOk call) []

/-- R56, U3: the answer to the next call, and the oracle after it. -/
def Oracle.answer (c : Cfg) (call : Nat) (o : Oracle) (q : Call) : Answer × Oracle :=
  match o with
  | .script (a :: rest) => (a, .script rest)
  | .script [] => (freeAnswer call, .script [])
  | .device d =>
    match d.respond c call q with
    | some (a, d') => (a, .device d')
    | none => (freeAnswer call, .script [])

/-- R232, U1: after an operation was cut short nothing is known of the device; the answers a script still lists are already any
value. `inCall` says that the operation was cut short at a transport call: one that does not return is dropped with it, so that
reset is the way out (R252) and what follows it answers the calls to come (DESIGN CHOICE, log entry 27: R232 leaves the call in
flight to the transport, R56 leaves the later answers free). -/
def Oracle.forget (inCall : Bool) : Oracle → Oracle
  | .script (.neverReturns :: answers) => .script (if inCall then answers else .neverReturns :: answers)
  | .script answers => .script answers
  | .device _ => .script []

/-- R54: the data of a read of `n` bytes: exactly `n` of them, any byte the answer does not supply being a free value. -/
def readData (call n : Nat) (data : List Byte) : List Byte :=
  (List.range n).map fun k => data.getD k (Config.freeData call k)

/-- R34 (c), R55: the line after a call that answered `ok`, or did not: unknown after a failure (N11; DESIGN CHOICE, log entry 16). -/
def Line.after (l : Line) (csA csR ok : Bool) : Line :=
  if ok then (if csR then .released else if csA then .asserted else l) else .unknown

/-- The line after a read of `n` bytes. N14, which R134 (b) cites, forbids assuming that a read of no byte toggles it: unknown (DESIGN
CHOICE, log entry 16). The block's writes are of at least one byte. -/
def Line.afterRead (l : Line) (n : Nat) (csA csR ok : Bool) : Line :=
  if n = 0 then .unknown else l.after csA csR ok

end Sys2Proof.Machine
end

