-- ==== Sys2Proof/Machine/Operands.lean ====
section
/-! DEFINITION. The operand forms: how an address, a payload, a chunk and a routine's parameters are made (30_encoding.md R83 to
R85, 41_erase_and_page_ops.md R145, 42_chunking_and_verify_ops.md R160). -/

namespace Sys2Proof.Machine

/-- Bit `k` of a byte, moved to place `j`, all other bits zero. -/
def moveBit (b : Byte) (k j : Nat) : Byte := if b.getLsbD k then 1#8 <<< j else 0

/-- R145: `reverseBits`: bit `7 - k` of the result is bit `k` of the operand. -/
def rev8 (b : Byte) : Byte :=
  moveBit b 0 7 ||| moveBit b 1 6 ||| moveBit b 2 5 ||| moveBit b 3 4 |||
    moveBit b 4 3 ||| moveBit b 5 2 ||| moveBit b 6 1 ||| moveBit b 7 0

/-- R10: `swz`, which is `rev8` in bit-swap mode and changes nothing otherwise. -/
def swz (c : Cfg) (b : Byte) : Byte := if c.BITSWAP then rev8 b else b

/-- R83: the address field of a frame is the low 24 bits of the routine's address operand. -/
def frameAddr (a : BitVec 32) : BitVec 24 := a.setWidth 24

/-- R84, `WRITE_PAGE` step 7: the program frame of a chunk; only the payload passes through `swz`. -/
def programFrame (c : Cfg) (a : BitVec 32) (chunk : List Byte) : List Byte :=
  ppFrame (frameAddr a) (chunk.map (swz c))

/-- R83, `READ_PAGE` step 3: the header of the read frame. -/
def readHeader (a : BitVec 32) : List Byte := readFrame (frameAddr a)

/-- R160: the length of the next chunk. -/
def chunkLength (c : Cfg) (remain : BitVec 32) : Nat := min remain.toNat c.PACKET_SIZE

/-- R165, R163: parameters of `READ_ALL`. -/
def readAllArgs (len : Nat) (sink : Sink) : Locals := { len := len, sink := sink }

/-- R133: parameters of `WRITE_PAGE`: as a host operation `a = addr`, `n = arg`, `i = 0`; from `WRITE_ALL`, `a = x[ADDR]`,
`i = x[DONE]`. -/
def writePageArgs (a : BitVec 32) (i n : Nat) : Locals := { a := a, i := i, n := n }

/-- R134: parameters of `READ_PAGE`. -/
def readPageArgs (a : BitVec 32) (n : Nat) : Locals := { a := a, n := n }

end Sys2Proof.Machine
end

