-- ==== Sys2Proof/Machine/Ops.lean ====
section
/-! DEFINITION. The pseudocode primitives (00_scope.md R10) as operations on the state: the named updates, control (R30), the
transport calls (R53, R54), delays and events (R210, R213), buffer accesses (R58, R59), the completion record (R96), raising an
error (R198), returning, and accepting a command (R31). -/

namespace Sys2Proof.Machine

/-- The outcome of a step of this machine. -/
abbrev Outcome := Host.Outcome State Fault Refusal

/-! ## Named updates -/

/-- R11: an external action happens. -/
def State.log (s : State) (a : Action) : State := { s with trace := s.trace ++ [a] }

/-- R28: `x[..] <- ..`. -/
def State.withX (s : State) (x : Regs) : State := { s with x := x }

/-- R30: the control stack changes. -/
def State.withPc (s : State) (pc : List Activation) : State := { s with pc := pc }

/-- R59: the read buffer changes. -/
def State.withRbuf (s : State) (m : Memory) : State := { s with RBUF := m }

/-- R53: a transport call returns: what answers the next one, and the line. -/
def State.withAnswered (s : State) (o : Oracle) (l : Line) : State :=
  { s with oracle := o, chipSelect := l, calls := s.calls + 1 }

/-- R96: the completion record is written: a field the operation does not define becomes a free value (R32). -/
def State.withRecord (s : State) (r : Result) (value : Option Byte) (flag : Option Bool) : State :=
  { s with
    RESULT := r.code
    VALUE := value.getD (Config.freeValue s.draws)
    FLAG := flag.getD (Config.freeFlag s.draws)
    draws := s.draws + 1 }

/-- R87: a presented command is taken from the port, with the buffer that comes with it. -/
def State.taken (s : State) (c : Command) (rest : List Command) : State :=
  { s with port := rest, WBUF := match c.image with | some bytes => Memory.ofBytes bytes | none => s.WBUF }

/-- R230: one step of the reset input has been seen. -/
def State.withResetLine (s : State) (l : List Bool) : State := { s with resetLine := l }

/-! ## Control (R30) -/

/-- The running activation changes. -/
def State.mapTop (s : State) (g : Activation → Activation) : State :=
  s.withPc (match s.pc with | [] => [] | f :: r => g f :: r)

/-- `goto k`. -/
def State.goto (k : Nat) (s : State) : State := s.mapTop fun f => { f with step := k }

/-- The next step number, with new local values. -/
def State.advanceWith (s : State) (g : Locals → Locals) : State :=
  s.mapTop fun f => { f with step := f.step + 1, loc := g f.loc }

/-- The next step number. -/
def State.advance (s : State) : State := s.advanceWith id

/-- `call`: pushes `(callee, 1)` with its parameters. -/
def State.call (r : Routine) (l : Locals) (s : State) : State :=
  s.withPc ({ routine := r, step := 1, loc := l } :: s.pc)

/-- What a routine returns to its caller. -/
inductive Returned where
  | void
  | byte (b : Byte)
  | bytes (bs : List Byte)
deriving DecidableEq, Repr

/-- The caller after the `call`: `s <- call READ_STATUS`, `out <- call READ_PAGE(..)`, or a call without a value. -/
def Activation.resume (v : Returned) (f : Activation) : Activation :=
  { f with
    step := f.step + 1
    loc := match v with
      | .void => f.loc
      | .byte b => { f.loc with s := b }
      | .bytes bs => { f.loc with out := bs } }

/-! ## Transport calls, delays, events, buffers -/

/-- R53: `(cnt, ok) <- XferWrite(bytes, csA, csR)`, a step of its own; while the call does not return, the block takes no step. -/
def xferWrite (bytes : List Byte) (csA csR : Bool) (s : State) : State :=
  match s.oracle.answer s.cfg s.calls (.write bytes csA csR) with
  | (.neverReturns, _) => s
  | (.returned cnt ok _, o) =>
    ((s.withAnswered o (s.chipSelect.after csA csR ok)).log (.write bytes csA csR cnt ok)).advanceWith
      fun l => { l with cnt := cnt, ok := ok }

/-- R54: `(d, cnt, ok) <- XferRead(n, csA, csR)`, a step of its own. -/
def xferRead (n : Nat) (csA csR : Bool) (s : State) : State :=
  match s.oracle.answer s.cfg s.calls (.read n csA csR) with
  | (.neverReturns, _) => s
  | (.returned cnt ok data, o) =>
    ((s.withAnswered o (s.chipSelect.afterRead n csA csR ok)).log
        (.read n csA csR (readData s.calls n data) cnt ok)).advanceWith
      fun l => { l with d := readData s.calls n data, cnt := cnt, ok := ok }

/-- R80: a frame is handed to the transport. Shape A (R55): chip-select is asserted and released in this one call. -/
def sendWhole (bytes : List Byte) (s : State) : Outcome := .next (xferWrite bytes true true s)

/-- R80. Shape B (R55): chip-select is asserted and held for the read phase, which is the routine's next transport call. -/
def sendHeader (bytes : List Byte) (s : State) : Outcome := .next (xferWrite bytes true false s)

/-- R55: the read phase of a shape B transaction: chip-select is released at its end. -/
def readPhase (n : Nat) (s : State) : Outcome := .next (xferRead n false true s)

/-- R210: `Delay(t)`. -/
def delay (t : Nat) (s : State) : State := s.log (.delay t)

/-- R213: `Emit(ev)`. -/
def emit (ev : Event) (s : State) : State := s.log (.emit ev)

/-- R58: the bytes `MemRead(WBUF, i, n)` gives. -/
def wbufBytes (i n : Nat) (s : State) : List Byte := readWbuf s.draws s.WBUF i n

/-- R58: `MemRead(WBUF, i, n)` happens; a read has no side effect. -/
def memRead (i n : Nat) (s : State) : State := s.log (.memRead i n)

/-- R59: `MemWrite(RBUF, i, len(v), v)`. -/
def memWrite (i : Nat) (v : List Byte) (s : State) : State :=
  (s.withRbuf (s.RBUF.writeBytes i v)).log (.memWrite i v)

/-! ## The end of an operation -/

/-- R96: `Done`: the completion record is written, the control stack is emptied, the host is signalled once. -/
def finish (r : Result) (value : Option Byte) (flag : Option Bool) (s : State) : State :=
  ((s.withRecord r value flag).withPc []).log (.done r value flag)

/-- R59: how many bytes of `RBUF`, from index 0, the host operation `f` stores when it ends `Ok`. -/
def Activation.rbufRange (f : Activation) : Nat :=
  match f.routine with
  | .readId => Cfg.ID_LEN
  | .readPage => f.loc.n
  | .readAll => match f.loc.sink with | .toRbuf => f.loc.len | .toFF | .toEQ => 0
  | .readStatus | .writeEnable | .writeDisable | .bulkErase | .writePage | .reverseBits => 0
  | .writeAll | .isEmpty | .programAndVerify => 0

/-- The running host operation: the oldest activation of the stack (R30). -/
def State.operation (s : State) : Option Activation := s.pc.getLast?

/-- R59, R232: `RBUF` with the range the running operation stores into turned into free values. -/
def drawOperation (s : State) : Memory :=
  match s.operation with
  | none => s.RBUF
  | some f => drawRbuf s.draws s.RBUF f.rbufRange

/-- R90, R161: whether an error is raised before any buffer is touched. -/
def Error.beforeBuffers : Error → Bool
  | .sizeExceeded | .illegalCommand => true
  | .transportError | .deviceBusy | .writeEnableNotSet | .lengthMismatch => false

/-- R59, D24, U9: `RBUF` after an operation that ends with `e`: over the range the operation would have stored it is any value, the
chunks a `READ_ALL` has already stored among it (log entry 8), and elsewhere as it was. -/
def rbufAfterError (e : Error) (s : State) : Memory :=
  if e.beforeBuffers then s.RBUF else drawOperation s

/-- R198: `raise E`, taking an error: the stack is emptied, `RESULT` takes the code, `FLAG` is 0, `VALUE` is unspecified; the
working registers keep what they hold (R199), and no clean-up frame is sent. -/
def raise (e : Error) (s : State) : State :=
  finish (.fail e) none (some false) (s.withRbuf (rbufAfterError e s))

/-- R30: `return v`: the caller goes on after its `call`; at top level it is `Done(Ok)`, with `VALUE` where the operation gives
one (`value`). -/
def returnWith (v : Returned) (value : Option Byte) (s : State) : State :=
  match s.pc with
  | [] => s
  | [_] => finish .ok value none s
  | _ :: caller :: rest => s.withPc (caller.resume v :: rest)

/-- R191: `if not ok: raise TransportError`. -/
def checkOk (l : Locals) (s : State) : Outcome :=
  if l.ok then .next s.advance else .next (raise .transportError s)

/-- R130: `if busy(s): raise DeviceBusy`. -/
def checkNotBusy (l : Locals) (s : State) : Outcome :=
  if busy l.s then .next (raise .deviceBusy s) else .next s.advance

/-- R131: the confirmation of the write-enable latch. -/
def checkArmed (l : Locals) (s : State) : Outcome :=
  if confirmFails s.cfg l.s then .next (raise .writeEnableNotSet s) else .next s.advance

/-- R194: `if cnt != expected: raise LengthMismatch`. -/
def checkCount (expected : Nat) (l : Locals) (s : State) : Outcome :=
  if l.cnt ≠ expected then .next (raise .lengthMismatch s) else .next s.advance

/-! ## Accepting a command (R31) -/

/-- R30, R31: an operation is accepted in IDLE, which pushes `(OP, 1)`; outside IDLE the presented command waits. -/
def accept (r : Routine) (l : Locals) (s : State) : Outcome :=
  match s.pc with
  | [] => .next (s.call r l)
  | _ :: _ => .next s

/-- R90, R196: a host page operation longer than a packet is rejected at step 0, in the step that accepts it (log entry 13). -/
def acceptPage (r : Routine) (l : Locals) (s : State) : Outcome :=
  match s.pc with
  | [] => if l.n > s.cfg.PACKET_SIZE then .next (raise .illegalCommand s) else .next (s.call r l)
  | _ :: _ => .next s

end Sys2Proof.Machine
end

