-- ==== Sys2Proof/Machine/ChunkOps.lean ====
section
/-! DEFINITION. The chunking and verify operations (42_chunking_and_verify_ops.md): WRITE_ALL, READ_ALL, IS_EMPTY,
PROGRAM_AND_VERIFY, with the chunk loop and the progress accounting they share. -/

namespace Sys2Proof.Machine

/-! ## Meanings of the host operations -/

/-- R162: `WRITE_ALL` is accepted. -/
def execWriteAll (len : BitVec 32) (s : State) : Outcome := accept .writeAll { len := len.toNat } s

/-- R163: `READ_ALL` is accepted, with the sink `TO_RBUF`. -/
def execReadAll (len : BitVec 32) (s : State) : Outcome := accept .readAll (readAllArgs len.toNat .toRbuf) s

/-- R164: `IS_EMPTY` is accepted. -/
def execIsEmpty (s : State) : Outcome := accept .isEmpty {} s

/-- R165: `PROGRAM_AND_VERIFY` is accepted. -/
def execProgramAndVerify (len : BitVec 32) (s : State) : Outcome :=
  accept .programAndVerify { len := len.toNat } s

/-! ## The chunk loop -/

/-- R161: the size check, the first step of `WRITE_ALL` and `READ_ALL`. -/
def checkSize (l : Locals) (s : State) : Outcome :=
  if l.len > s.cfg.CAPACITY then .next (raise .sizeExceeded s) else .next s.advance

/-- R162, R163, step 2: the registers at the start of a loop over `len` bytes. -/
def startRegs (len : Nat) (x : Regs) : Regs :=
  { x with ADDR := 0, REMAIN := BitVec.ofNat 32 len, TOTAL := BitVec.ofNat 32 len, DONE := 0, LASTPCT := 0 }

/-- R162 step 6, R163 step 7: the registers after a chunk of `n` bytes. -/
def nextChunkRegs (n : Nat) (x : Regs) : Regs :=
  { x with
    ADDR := BitVec.ofNat 32 (x.ADDR.toNat + n)
    REMAIN := BitVec.ofNat 32 (x.REMAIN.toNat - n)
    DONE := BitVec.ofNat 32 (x.DONE.toNat + n) }

/-- R162, R163, step 3: a loop with nothing left returns. -/
def loopTest (s : State) : Outcome :=
  if s.x.REMAIN = 0 then .next (returnWith .void none s) else .next s.advance

/-- R160: step 4, the length of the chunk. -/
def cutChunk (s : State) : Outcome :=
  .next (s.advanceWith fun l => { l with n := chunkLength s.cfg s.x.REMAIN })

/-- R166: the percentage is calculated. -/
def calcPercent (s : State) : Outcome :=
  .next (s.advanceWith fun l => { l with p := percent s.x.DONE.toNat s.x.TOTAL.toNat })

/-- R166: a `Progress` event where the percentage has changed. -/
def reportProgress (l : Locals) (s : State) : Outcome :=
  if l.p ≠ s.x.LASTPCT.toNat then
    .next ((emit (.progress (BitVec.ofNat 7 l.p)) s).withX { s.x with LASTPCT := BitVec.ofNat 7 l.p }).advance
  else .next s.advance

/-- R162. -/
def stepWriteAll (k : Nat) (l : Locals) (s : State) : Outcome :=
  match k with
  | 1 => checkSize l s
  | 2 => .next (s.withX (startRegs l.len s.x)).advance
  | 3 => loopTest s
  | 4 => cutChunk s
  | 5 => .next (s.call .writePage (writePageArgs s.x.ADDR s.x.DONE.toNat l.n))
  | 6 => .next (s.withX (nextChunkRegs l.n s.x)).advance
  | 7 => calcPercent s
  | 8 => reportProgress l s
  | 9 => .next (s.goto 3)
  | k => .fault (.noSuchStep .writeAll k)

/-- R163, step 6: the chunk goes to the sink. -/
def disposeChunk (l : Locals) (s : State) : State :=
  match l.sink with
  | .toRbuf => memWrite s.x.DONE.toNat l.out s
  | .toFF => s.withX { s.x with ALLFF := s.x.ALLFF && allErased l.out }
  | .toEQ =>
    (memRead s.x.DONE.toNat l.n s).withX
      { s.x with EQ := s.x.EQ && decide (l.out = wbufBytes s.x.DONE.toNat l.n s) }

/-- R163. -/
def stepReadAll (k : Nat) (l : Locals) (s : State) : Outcome :=
  match k with
  | 1 => checkSize l s
  | 2 => .next (s.withX (startRegs l.len s.x)).advance
  | 3 => loopTest s
  | 4 => cutChunk s
  | 5 => .next (s.call .readPage (readPageArgs s.x.ADDR l.n))
  | 6 => .next (disposeChunk l s).advance
  | 7 => .next (s.withX (nextChunkRegs l.n s.x)).advance
  | 8 => calcPercent s
  | 9 => reportProgress l s
  | 10 => .next (s.goto 3)
  | k => .fault (.noSuchStep .readAll k)

/-! ## Blank check and verify -/

/-- R164. -/
def stepIsEmpty (k : Nat) (_l : Locals) (s : State) : Outcome :=
  match k with
  | 1 => .next (s.withX { s.x with ALLFF := true }).advance
  | 2 => .next (s.call .readAll (readAllArgs s.cfg.CAPACITY .toFF))
  | 3 => .next (finish .ok none (some s.x.ALLFF) s)
  | k => .fault (.noSuchStep .isEmpty k)

/-- R165. -/
def stepProgramAndVerify (k : Nat) (l : Locals) (s : State) : Outcome :=
  match k with
  | 1 => .next (s.call .bulkErase {})
  | 2 => .next (s.call .writeAll { len := l.len })
  | 3 => .next (s.withX { s.x with EQ := true }).advance
  | 4 => .next (s.call .readAll (readAllArgs l.len .toEQ))
  | 5 => .next (finish .ok none (some s.x.EQ) s)
  | k => .fault (.noSuchStep .programAndVerify k)

end Sys2Proof.Machine
end

