-- ==== Sys2Proof/Machine/PageOps.lean ====
section
/-! DEFINITION. The erase and page operations (41_erase_and_page_ops.md): BULK_ERASE, WRITE_PAGE, READ_PAGE, REVERSE_BITS, and the
frames BE, PP, READ they send. -/

namespace Sys2Proof.Machine

/-! ## Meanings of the host operations -/

/-- R132: `BULK_ERASE` is accepted. -/
def execBulkErase (s : State) : Outcome := accept .bulkErase {} s

/-- R133: `WRITE_PAGE` is accepted (`a = addr`, `n = arg`, `i = 0`), or ends with `IllegalCommand` at its step 0. -/
def execWritePage (addr : BitVec 24) (len : BitVec 32) (s : State) : Outcome :=
  acceptPage .writePage (writePageArgs (addr.setWidth 32) 0 len.toNat) s

/-- R134: `READ_PAGE` is accepted (`a = addr`, `n = arg`), or ends with `IllegalCommand` at its step 0. -/
def execReadPage (addr : BitVec 24) (len : BitVec 32) (s : State) : Outcome :=
  acceptPage .readPage (readPageArgs (addr.setWidth 32) len.toNat) s

/-- R145: `REVERSE_BITS` is accepted. -/
def execReverseBits (b : Byte) (s : State) : Outcome := accept .reverseBits { b := b } s

/-! ## Meanings of the frames -/

/-- R132, R82: `BE`, format F-OP. -/
def execBe (s : State) : Outcome := sendWhole [opBe] s

/-- R133, R81: `PP`, format F-AP: opcode, address and payload in one call. -/
def execPp (addr : BitVec 24) (payload : List Byte) (s : State) : Outcome := sendWhole (ppFrame addr payload) s

/-- R134, R81: `READ`, format F-AR: the header, chip-select held; the read phase is READ_PAGE step 5. -/
def execRead (addr : BitVec 24) (s : State) : Outcome := sendHeader (readFrame addr) s

/-! ## The steps beside the frame -/

/-- R132. Step 6 sends `BE`. -/
def stepBulkErase (k : Nat) (l : Locals) (s : State) : Outcome :=
  match k with
  | 1 => .next (s.call .readStatus {})
  | 2 => checkNotBusy l s
  | 3 => .next (s.call .writeEnable {})
  | 4 => .next (s.call .readStatus {})
  | 5 => checkArmed l s
  | 7 => checkOk l s
  | 8 => .next (delay s.cfg.T_ERASE_POLL s).advance
  | 9 => .next (s.call .readStatus {})
  | 10 => .next (emit .spin s).advance
  | 11 => if busy l.s then .next (s.goto 8) else .next s.advance
  | 12 => .next (returnWith .void none s)
  | k => .fault (.noSuchStep .bulkErase k)

/-- R133. Step 8 sends `PP`. -/
def stepWritePage (k : Nat) (l : Locals) (s : State) : Outcome :=
  match k with
  | 0 => if l.n > s.cfg.PACKET_SIZE then .next (raise .illegalCommand s) else .next s.advance
  | 1 => .next (s.call .readStatus {})
  | 2 => checkNotBusy l s
  | 3 => .next (s.call .writeEnable {})
  | 4 => .next (s.call .readStatus {})
  | 5 => checkArmed l s
  | 6 => .next ((memRead l.i l.n s).advanceWith fun l' => { l' with chunk := wbufBytes l.i l.n s })
  | 7 => .next (s.advanceWith fun l' => { l' with frame := programFrame s.cfg l.a l.chunk })
  | 9 => checkOk l s
  | 10 => checkCount (4 + l.n) l s
  | 11 => .next (delay s.cfg.T_PAGE_SETTLE s).advance
  | 12 => .next (s.call .readStatus {})
  | 13 => if busy l.s then .next (s.goto 12) else .next s.advance
  | 14 => .next (returnWith .void none s)
  | k => .fault (.noSuchStep .writePage k)

/-- R134, step 9: at top level the bytes are stored in `RBUF` and the operation is done; a caller gets them. -/
def returnPage (out : List Byte) (s : State) : State :=
  match s.pc with
  | [_] => finish .ok none none (memWrite 0 out s)
  | _ => returnWith (.bytes out) none s

/-- R134. Step 3 sends `READ`. -/
def stepReadPage (k : Nat) (l : Locals) (s : State) : Outcome :=
  match k with
  | 0 => if l.n > s.cfg.PACKET_SIZE then .next (raise .illegalCommand s) else .next s.advance
  | 1 => .next (s.call .readStatus {})
  | 2 => checkNotBusy l s
  | 4 => checkOk l s
  | 5 => readPhase l.n s
  | 6 => checkOk l s
  | 7 => checkCount l.n l s
  | 8 => .next (s.advanceWith fun l' => { l' with out := l.d.map (swz s.cfg) })
  | 9 => .next (returnPage l.out s)
  | k => .fault (.noSuchStep .readPage k)

/-- R145. -/
def stepReverseBits (k : Nat) (l : Locals) (s : State) : Outcome :=
  match k with
  | 1 => .next (returnWith (.byte (rev8 l.b)) (some (rev8 l.b)) s)
  | k => .fault (.noSuchStep .reverseBits k)

end Sys2Proof.Machine
end

