-- ==== Sys2Proof/Machine/StatusOps.lean ====
section
/-! DEFINITION. The status and control operations (40_status_and_control_ops.md): READ_STATUS, WRITE_ENABLE, WRITE_DISABLE, READ_ID,
and the frames RDSR, WREN, WRDI, RDID they send. An operation's meaning is its acceptance (R30, R31); its numbered steps follow
under `step..`, one step of the machine each. The step that sends a frame is the frame's own meaning. -/

namespace Sys2Proof.Machine

/-! ## Meanings of the host operations -/

/-- R111: `READ_STATUS` is accepted. -/
def execReadStatus (s : State) : Outcome := accept .readStatus {} s

/-- R112: `WRITE_ENABLE` is accepted. -/
def execWriteEnable (s : State) : Outcome := accept .writeEnable {} s

/-- R113: `WRITE_DISABLE` is accepted. -/
def execWriteDisable (s : State) : Outcome := accept .writeDisable {} s

/-- R114: `READ_ID` is accepted. -/
def execReadId (s : State) : Outcome := accept .readId {} s

/-! ## Meanings of the frames -/

/-- R111, R82: `RDSR`, format F-OPR: the opcode, chip-select held; the 1-byte read phase is READ_STATUS step 3. -/
def execRdsr (s : State) : Outcome := sendHeader [opRdsr] s

/-- R112, R82: `WREN`, format F-OP. -/
def execWren (s : State) : Outcome := sendWhole [opWren] s

/-- R113, R82: `WRDI`, format F-OP. -/
def execWrdi (s : State) : Outcome := sendWhole [opWrdi] s

/-- R114, R82: `RDID`, format F-OPR: the opcode, chip-select held; the 3-byte read phase is READ_ID step 3. -/
def execRdid (s : State) : Outcome := sendHeader [opRdid] s

/-! ## The steps after the frame -/

/-- R111: `d[0]`. A read of one byte has given exactly one (R54), so the free value is never taken. -/
def firstByte (l : Locals) (s : State) : Byte := l.d.getD 0 (Config.freeData s.calls 0)

/-- R111. Step 1 sends `RDSR`. -/
def stepReadStatus (k : Nat) (l : Locals) (s : State) : Outcome :=
  match k with
  | 2 => checkOk l s
  | 3 => readPhase 1 s
  | 4 => checkOk l s
  | 5 => .next (s.withX { s.x with STATUS := firstByte l s }).advance
  | 6 => .next (returnWith (.byte (firstByte l s)) (some (firstByte l s)) s)
  | k => .fault (.noSuchStep .readStatus k)

/-- R112. Step 1 sends `WREN`. -/
def stepWriteEnable (k : Nat) (l : Locals) (s : State) : Outcome :=
  match k with
  | 2 => checkOk l s
  | 3 => .next (returnWith .void none s)
  | k => .fault (.noSuchStep .writeEnable k)

/-- R113. Step 1 sends `WRDI`. -/
def stepWriteDisable (k : Nat) (l : Locals) (s : State) : Outcome :=
  match k with
  | 2 => checkOk l s
  | 3 => .next (returnWith .void none s)
  | k => .fault (.noSuchStep .writeDisable k)

/-- R114. Step 1 sends `RDID`. -/
def stepReadId (k : Nat) (l : Locals) (s : State) : Outcome :=
  match k with
  | 2 => checkOk l s
  | 3 => readPhase Cfg.ID_LEN s
  | 4 => checkOk l s
  | 5 => .next (memWrite 0 l.d s).advance
  | 6 => .next (returnWith (.bytes l.d) none s)
  | k => .fault (.noSuchStep .readId k)

end Sys2Proof.Machine
end

