-- ==== Sys2Proof/Machine/Sequencer.lean ====
section
/-! DEFINITION. The sequencer (00_scope.md R3): which frame the running activation sends at its step, what its step does where
it sends none, and what reset does to it (70_reset_and_hazards.md R230 to R233). -/

namespace Sys2Proof.Machine

/-- R82: the bytes the running activation is about to send: each of the seven frames at the one step that sends it. -/
def Activation.outgoing (f : Activation) : Option (List Byte) :=
  match f.routine, f.step with
  | .readStatus, 1 => some [opRdsr]
  | .writeEnable, 1 => some [opWren]
  | .writeDisable, 1 => some [opWrdi]
  | .readId, 1 => some [opRdid]
  | .bulkErase, 6 => some [opBe]
  | .writePage, 8 => some f.loc.frame
  | .readPage, 3 => some (readHeader f.loc.a)
  | _, _ => none

/-- R30: the step of the running activation, where it sends no frame. -/
def routineStep (f : Activation) (s : State) : Outcome :=
  match f.routine with
  | .readStatus => stepReadStatus f.step f.loc s
  | .writeEnable => stepWriteEnable f.step f.loc s
  | .writeDisable => stepWriteDisable f.step f.loc s
  | .readId => stepReadId f.step f.loc s
  | .bulkErase => stepBulkErase f.step f.loc s
  | .writePage => stepWritePage f.step f.loc s
  | .readPage => stepReadPage f.step f.loc s
  | .reverseBits => stepReverseBits f.step f.loc s
  | .writeAll => stepWriteAll f.step f.loc s
  | .readAll => stepReadAll f.step f.loc s
  | .isEmpty => stepIsEmpty f.step f.loc s
  | .programAndVerify => stepProgramAndVerify f.step f.loc s

/-! ## Reset (R230, R232) -/

/-- R55: whether the running activation is at the read phase of a transaction of shape B. -/
def Activation.receiving (f : Activation) : Bool :=
  match f.routine, f.step with
  | .readStatus, 3 | .readId, 3 | .readPage, 5 => true
  | _, _ => false

/-- R65: whether the step of the running activation is a transport call. -/
def Activation.makesCall (f : Activation) : Bool := f.outgoing.isSome || f.receiving

/-- R38: working registers after a reset: unspecified. -/
def freeRegs (k : Nat) : Regs :=
  { ADDR := Config.freeReg k 0, REMAIN := Config.freeReg k 1, TOTAL := Config.freeReg k 2, DONE := Config.freeReg k 3
    LASTPCT := (Config.freeReg k 4).setWidth 7, STATUS := (Config.freeReg k 5).setWidth 8
    ALLFF := (Config.freeReg k 6).getLsbD 0, EQ := (Config.freeReg k 7).getLsbD 0 }

/-- R230, R233: the reset input in IDLE: every register is unspecified, `CFG` and everything outside the block are untouched; no
`Done`, no action. R232: during an operation it vanishes without a `Done`, and `RBUF`, the line and the device are any value (log
entries 17 and 27). -/
def assertReset (s : State) : State :=
  { s with
    x := freeRegs s.draws
    pc := []
    RESULT := (Config.freeReg s.draws 8).setWidth 4
    VALUE := Config.freeValue s.draws
    FLAG := Config.freeFlag s.draws
    draws := s.draws + 1
    RBUF := drawOperation s
    oracle := match s.pc with | [] => s.oracle | f :: _ => s.oracle.forget f.makesCall
    chipSelect := match s.pc with | [] => s.chipSelect | _ :: _ => .unknown }

/-! ## The activation of a frame -/

/-- The activation that sends the given frame next: of the routine R82 names as its sender, at the step that sends it. Bytes that
are none of the seven frames stand where `WRITE_PAGE` sends what it has built (log entry 14). -/
def senderOf (bytes : List Byte) : Activation :=
  match decodeFrame bytes with
  | .ok .rdsr => { routine := .readStatus, step := 1 }
  | .ok .wren => { routine := .writeEnable, step := 1 }
  | .ok .wrdi => { routine := .writeDisable, step := 1 }
  | .ok .rdid => { routine := .readId, step := 1 }
  | .ok .be => { routine := .bulkErase, step := 6 }
  | .ok (.read a) => { routine := .readPage, step := 3, loc := readPageArgs (a.setWidth 32) 0 }
  | _ =>
    { routine := .writePage, step := 8
      loc := { frame := bytes, n := bytes.length - 4, chunk := bytes.drop 4 } }

end Sys2Proof.Machine
end

