-- ==== Sys2Proof/Machine/Dispatch.lean ====
section
/-! DEFINITION. One arm for each instruction. -/

namespace Sys2Proof.Machine

def exec (i : Instr) (s : State) : Host.Outcome State Fault Refusal :=
  match i with
  | .readStatus => Sys2Proof.Machine.execReadStatus s
  | .writeEnable => Sys2Proof.Machine.execWriteEnable s
  | .writeDisable => Sys2Proof.Machine.execWriteDisable s
  | .readId => Sys2Proof.Machine.execReadId s
  | .bulkErase => Sys2Proof.Machine.execBulkErase s
  | .writePage addr len => Sys2Proof.Machine.execWritePage addr len s
  | .readPage addr len => Sys2Proof.Machine.execReadPage addr len s
  | .reverseBits b => Sys2Proof.Machine.execReverseBits b s
  | .writeAll len => Sys2Proof.Machine.execWriteAll len s
  | .readAll len => Sys2Proof.Machine.execReadAll len s
  | .isEmpty => Sys2Proof.Machine.execIsEmpty s
  | .programAndVerify len => Sys2Proof.Machine.execProgramAndVerify len s
  | .rdsr => Sys2Proof.Machine.execRdsr s
  | .wren => Sys2Proof.Machine.execWren s
  | .wrdi => Sys2Proof.Machine.execWrdi s
  | .rdid => Sys2Proof.Machine.execRdid s
  | .be => Sys2Proof.Machine.execBe s
  | .pp addr payload => Sys2Proof.Machine.execPp addr payload s
  | .read addr => Sys2Proof.Machine.execRead addr s

end Sys2Proof.Machine
end

