-- ==== Sys2Proof/Machine/Step.lean ====
section
/-! DEFINITION. The step of the machine: reset while its input is asserted; in IDLE the presented command; otherwise the step of
the running activation, which is `exec` of the frame where it sends one. -/

namespace Sys2Proof.Machine

/-- R31, R90: a presented command is taken; a reserved operation code completes at once with `IllegalCommand`. -/
def acceptStep (c : Command) (rest : List Command) (s : State) : Outcome :=
  match decodeCommand c.word with
  | .ok i => exec i (s.taken c rest)
  | .error _ => .next (raise .illegalCommand (s.taken c rest))

/-- R30, R82: a running activation sends its frame, or does what its step says. -/
def runStep (f : Activation) (s : State) : Outcome :=
  match f.outgoing with
  | some bytes =>
    match decodeFrame bytes with
    | .ok i => exec i s
    | .error _ => .fault (.notAFrame bytes)
  | none => routineStep f s

/-- One step where the reset input is not asserted. R217: in IDLE with nothing presented the block waits. -/
def sequencerStep (s : State) : Outcome :=
  match s.pc, s.port with
  | [], [] => .next s
  | [], c :: rest => acceptStep c rest s
  | f :: _, _ => runStep f s

/-- One step. R230: the reset input may be asserted at any time. -/
def step (s : State) : Host.Outcome State Fault Refusal :=
  match s.resetLine with
  | [] => sequencerStep s
  | false :: rest => sequencerStep (s.withResetLine rest)
  | true :: rest => .next (assertReset (s.withResetLine rest))

/-- The state whose very next step runs the given instruction: a command word stands at the command port of the idle block; a frame
is the next one a routine sends, on the activation whose routine sends it. The reset input is not asserted (log entry 14). -/
def State.withFetchWord (s : State) (nbits w : Nat) : State :=
  match codeOfTableWord nbits w with
  | .command c => { s with pc := [], port := { word := c } :: s.port, resetLine := [] }
  | .frame bytes => { s with pc := [senderOf bytes], resetLine := [] }

end Sys2Proof.Machine
end

