-- ==== Sys2Proof/WellFormed.lean ====
section
/-! DEFINITION. Which instructions are well formed: the bounds the spec puts on an operand beyond its width. Every field of a
fixed width has that width by its type, so the one bound left is that on a program frame's payload. -/

namespace Sys2Proof

/-- R65, R81: a program frame carries at most `CFG.PACKET_SIZE` payload bytes. A host page operation whose length exceeds
it is no ill-formed instruction: the block answers it with `IllegalCommand` (R90). -/
def Instr.wellFormed (c : Cfg) : Instr → Bool
  | .pp _ payload => decide (payload.length ≤ c.PACKET_SIZE)
  | .readStatus | .writeEnable | .writeDisable | .readId | .bulkErase => true
  | .writePage _ _ | .readPage _ _ | .reverseBits _ | .writeAll _ | .readAll _ => true
  | .isEmpty | .programAndVerify _ => true
  | .rdsr | .wren | .wrdi | .rdid | .be | .read _ => true

/-- R67, R248: what the host must keep for a page operation it issues: the range lies inside the device. The block does not
check it. -/
def Instr.insideDevice (c : Cfg) : Instr → Bool
  | .writePage a n | .readPage a n => decide (a.toNat + n.toNat ≤ c.CAPACITY)
  | .pp a payload => decide (a.toNat + payload.length ≤ c.CAPACITY)
  | .readStatus | .writeEnable | .writeDisable | .readId | .bulkErase => true
  | .reverseBits _ | .writeAll _ | .readAll _ | .isEmpty | .programAndVerify _ => true
  | .rdsr | .wren | .wrdi | .rdid | .be | .read _ => true

end Sys2Proof
end

