-- ==== Sys2Proof/Safety.lean ====
section
/-! DEFINITION. The words the statements use: runs of an accepted operation, the control states the spec's pseudocode has (R30, R168),
the chunk loop's invariants (R37), what a trace may hold (R55, R70, R82), and the transport answers under which an operation
ends `Ok`. -/

namespace Sys2Proof.Machine

/-! ## Runs -/

/-- At most `k` steps, stopping as soon as the block is IDLE. -/
def runToIdle : Nat → State → Outcome
  | 0, s => .next s
  | k + 1, s =>
    match s.pc with
    | [] => .next s
    | _ :: _ =>
      match step s with
      | .next t => runToIdle k t
      | .fault r => .fault r
      | .refused r => .refused r

/-- `i` is accepted in `s`, and the operation so begun ends in `t`, the first IDLE state after it. -/
def Completes (i : Instr) (s t : State) : Prop :=
  ∃ a k, exec i s = .next a ∧ a.pc ≠ [] ∧ runToIdle k a = .next t ∧ t.pc = []

/-- What no operation changes: the configuration, the write buffer, what the host presents next, the reset input. -/
def KeepsHostSide (s t : State) : Prop :=
  t.cfg = s.cfg ∧ t.WBUF = s.WBUF ∧ t.port = s.port ∧ t.resetLine = s.resetLine

/-- R96: the operation begun in `s` has ended in `t` with the record given, after the actions `acts`. -/
def EndsAs (s t : State) (r : Result) (value : Option Byte) (flag : Option Bool) (acts : List Action) : Prop :=
  t.pc = [] ∧ t.RESULT = r.code ∧ (∀ v, value = some v → t.VALUE = v) ∧ (∀ b, flag = some b → t.FLAG = b) ∧
    t.trace = s.trace ++ acts ++ [.done r value flag] ∧ KeepsHostSide s t

/-- R190: the error the step of an activation raises, by routine and step. -/
def errorAt (c : Cfg) (f : Activation) : Option Error :=
  match f.routine, f.step with
  | .readStatus, 2 | .readStatus, 4 | .writeEnable, 2 | .writeDisable, 2 | .readId, 2 | .readId, 4
  | .bulkErase, 7 | .writePage, 9 | .readPage, 4 | .readPage, 6 => if f.loc.ok then none else some .transportError
  | .bulkErase, 2 | .writePage, 2 | .readPage, 2 => if busy f.loc.s then some .deviceBusy else none
  | .bulkErase, 5 | .writePage, 5 => if confirmFails c f.loc.s then some .writeEnableNotSet else none
  | .writePage, 10 => if f.loc.cnt ≠ 4 + f.loc.n then some .lengthMismatch else none
  | .readPage, 7 => if f.loc.cnt ≠ f.loc.n then some .lengthMismatch else none
  | .writeAll, 1 | .readAll, 1 => if c.CAPACITY < f.loc.len then some .sizeExceeded else none
  | .writePage, 0 | .readPage, 0 => if c.PACKET_SIZE < f.loc.n then some .illegalCommand else none
  | _, _ => none

/-! ## Control states (R30, R168) -/

/-- The last step number of a routine's pseudocode. -/
def lastStep : Routine → Nat
  | .readStatus => 6
  | .writeEnable => 3
  | .writeDisable => 3
  | .readId => 6
  | .bulkErase => 12
  | .writePage => 14
  | .readPage => 9
  | .reverseBits => 1
  | .writeAll => 9
  | .readAll => 10
  | .isEmpty => 3
  | .programAndVerify => 5

/-- The first step number: 1, and 0 for the two page operations. -/
def firstStep : Routine → Nat
  | .writePage | .readPage => 0
  | .readStatus | .writeEnable | .writeDisable | .readId | .bulkErase | .reverseBits => 1
  | .writeAll | .readAll | .isEmpty | .programAndVerify => 1

/-- R168: the routine that a step of another calls. -/
def callee : Routine → Nat → Option Routine
  | .bulkErase, 1 => some .readStatus
  | .bulkErase, 3 => some .writeEnable
  | .bulkErase, 4 => some .readStatus
  | .bulkErase, 9 => some .readStatus
  | .writePage, 1 => some .readStatus
  | .writePage, 3 => some .writeEnable
  | .writePage, 4 => some .readStatus
  | .writePage, 12 => some .readStatus
  | .readPage, 1 => some .readStatus
  | .writeAll, 5 => some .writePage
  | .readAll, 5 => some .readPage
  | .isEmpty, 2 => some .readAll
  | .programAndVerify, 1 => some .bulkErase
  | .programAndVerify, 2 => some .writeAll
  | .programAndVerify, 4 => some .readAll
  | _, _ => none

/-- What the local values of an activation hold at its step, where a later step relies on it: a page is no longer than a packet
(R65), a request no longer than the device (R161), a read has given exactly the bytes it asked for (R54), a program frame is the one
R84 builds from the chunk. -/
def Activation.localsSound (s : State) (f : Activation) : Prop :=
  match f.routine with
  | .readStatus => 4 ≤ f.step → f.loc.d.length = 1
  | .readId => 4 ≤ f.step → f.loc.d.length = Cfg.ID_LEN
  | .writePage =>
    (1 ≤ f.step → f.loc.n ≤ s.cfg.PACKET_SIZE) ∧
    (f.step = 7 → f.loc.chunk = wbufBytes f.loc.i f.loc.n s) ∧
    (f.step = 8 → f.loc.frame = programFrame s.cfg f.loc.a (wbufBytes f.loc.i f.loc.n s))
  | .readPage =>
    (1 ≤ f.step → f.loc.n ≤ s.cfg.PACKET_SIZE) ∧
    (6 ≤ f.step → f.loc.d.length = f.loc.n) ∧ (9 ≤ f.step → f.loc.out.length = f.loc.n)
  | .writeAll => (2 ≤ f.step → f.loc.len ≤ s.cfg.CAPACITY) ∧ (5 ≤ f.step → f.loc.n ≤ s.cfg.PACKET_SIZE)
  | .readAll =>
    (2 ≤ f.step → f.loc.len ≤ s.cfg.CAPACITY) ∧
    (5 ≤ f.step → f.loc.n ≤ s.cfg.PACKET_SIZE) ∧ (f.step = 6 → f.loc.out.length = f.loc.n)
  | .writeEnable | .writeDisable | .bulkErase | .reverseBits | .isEmpty | .programAndVerify => True

/-- An activation at a numbered step of its routine, with sound local values. -/
def Activation.sound (s : State) (f : Activation) : Prop :=
  firstStep f.routine ≤ f.step ∧ f.step ≤ lastStep f.routine ∧ f.localsSound s

/-- `f` runs on behalf of `g`: `g` stands at a step that calls `f`'s routine, and a page operation of a chunk loop has the loop's
address, index and length (R162, R163), the loops of the verify operations their lengths and sinks (R164, R165). -/
def Linked (s : State) (g f : Activation) : Prop :=
  callee g.routine g.step = some f.routine ∧
  match g.routine with
  | .writeAll => f.loc.a = s.x.ADDR ∧ f.loc.i = s.x.DONE.toNat ∧ f.loc.n = g.loc.n ∧ 1 ≤ f.step
  | .readAll => f.loc.a = s.x.ADDR ∧ f.loc.n = g.loc.n ∧ 1 ≤ f.step
  | .isEmpty => f.loc.len = s.cfg.CAPACITY ∧ f.loc.sink = .toFF
  | .programAndVerify =>
    (f.routine = .writeAll → f.loc.len = g.loc.len) ∧
    (f.routine = .readAll → f.loc.len = g.loc.len ∧ f.loc.sink = .toEQ)
  | .readStatus | .writeEnable | .writeDisable | .readId | .bulkErase => True
  | .writePage | .readPage | .reverseBits => True

/-- A control stack as the pseudocode makes it. -/
def stackSound (s : State) : List Activation → Prop
  | [] => True
  | [f] => f.sound s
  | f :: g :: r => f.sound s ∧ Linked s g f ∧ stackSound s (g :: r)

/-- The control state is one that the pseudocode has. -/
def State.controlSound (s : State) : Prop := stackSound s s.pc

/-! ## The chunk loop (R37, R160) -/

/-- R37: the invariants of the chunk-loop registers. R37 states the last one at the top of an iteration, which is where something
remains: after a last short chunk `ADDR` is the length (log entry 15). -/
def Regs.loopInvariant (c : Cfg) (x : Regs) : Prop :=
  x.ADDR = x.DONE ∧ x.DONE.toNat + x.REMAIN.toNat = x.TOTAL.toNat ∧ x.TOTAL.toNat ≤ c.CAPACITY ∧
    (x.REMAIN ≠ 0 → c.PACKET_SIZE ∣ x.ADDR.toNat)

/-- The first and the last step at which a chunk is in hand: from the cut to the advance of the registers. -/
def chunkSteps : Routine → Option (Nat × Nat)
  | .writeAll => some (5, 6)
  | .readAll => some (5, 7)
  | .readStatus | .writeEnable | .writeDisable | .readId | .bulkErase | .writePage => none
  | .readPage | .reverseBits | .isEmpty | .programAndVerify => none

/-- R37 for one activation of a chunk loop that has started its registers (from step 3 on); with a chunk in hand its length is
R160's. -/
def Activation.loopSound (c : Cfg) (x : Regs) (f : Activation) : Prop :=
  match chunkSteps f.routine with
  | none => True
  | some (cut, last) =>
    3 ≤ f.step →
      x.loopInvariant c ∧ x.TOTAL.toNat = f.loc.len ∧ (f.step ≠ 3 ∧ f.step ≤ last → x.REMAIN ≠ 0) ∧
        (cut ≤ f.step ∧ f.step ≤ last → f.loc.n = chunkLength c x.REMAIN) ∧
        (last < f.step → x.TOTAL ≠ 0)

/-- R37 for every activation of the control stack. -/
def State.loopsSound (s : State) : Prop := ∀ f ∈ s.pc, f.loopSound s.cfg s.x

/-! ## Memory -/

/-- Every byte-addressed space of the state is in canonical form. -/
def State.memoriesCanonical (s : State) : Prop :=
  s.WBUF.wf ∧ s.RBUF.wf ∧
    match s.oracle with
    | .script _ => True
    | .device d => d.flash.wf

/-! ## Traces -/

/-- R55: whether the frame's transaction is of shape A, one call that asserts and releases chip-select. -/
def shapeA : Instr → Bool
  | .wren | .wrdi | .be | .pp _ _ => true
  | .rdsr | .rdid | .read _ => false
  | .readStatus | .writeEnable | .writeDisable | .readId | .bulkErase => false
  | .writePage _ _ | .readPage _ _ | .reverseBits _ | .writeAll _ | .readAll _ => false
  | .isEmpty | .programAndVerify _ => false

/-- R55, R82: a transport call the block may make: a write hands over one of the seven frames and asserts chip-select, releasing it
where the frame is the whole transaction; a read asserts nothing and releases. -/
def Action.lawful : Action → Prop
  | .write bytes csA csR _ _ => ∃ i, decodeFrame bytes = .ok i ∧ csA = true ∧ csR = shapeA i
  | .read _ csA csR _ _ _ => csA = false ∧ csR = true
  | .delay _ | .emit _ | .memRead _ _ | .memWrite _ _ | .done _ _ _ => True

/-- Whether an action is a transport call. -/
def Action.isCall : Action → Bool
  | .write _ _ _ _ _ | .read _ _ _ _ _ _ => true
  | .delay _ | .emit _ | .memRead _ _ | .memWrite _ _ | .done _ _ _ => false

/-- The transport calls of a trace, in order. -/
def calls (trace : List Action) : List Action := trace.filter Action.isCall

/-- R70, R131: the calls that arm a write-class command: the enable, then the confirming status read, all of them answered with
success and the confirmation passed. -/
def armingCalls (c : Cfg) (acts : List Action) : Prop :=
  ∃ n1 n2 n3 s, confirmFails c s = false ∧
    acts = [.write [opWren] true true n1 true, .write [opRdsr] true false n2 true, .read 1 false true [s] n3 true]

/-- R70: every erase or program frame of the trace is preceded, with no call between, by the calls that arm it. -/
def writesArmed (c : Cfg) (trace : List Action) : Prop :=
  ∀ before after bytes csA csR n ok, calls trace = before ++ .write bytes csA csR n ok :: after →
    (decodeFrame bytes = .ok .be ∨ ∃ a payload, decodeFrame bytes = .ok (.pp a payload)) →
      ∃ earlier arm, before = earlier ++ arm ∧ armingCalls c arm

/-- The latest calls of a trace are the given ones. -/
def endsWith (trace acts : List Action) : Prop := ∃ earlier, calls trace = earlier ++ acts

/-- R55: the one call of a successful `WREN` frame. -/
def enableCall (n : Nat) (ok : Bool) : Action := .write [opWren] true true n ok
/-- R55: the first call of a status read. -/
def statusHeader (n : Nat) (ok : Bool) : Action := .write [opRdsr] true false n ok
/-- R55: the second call of a status read. -/
def statusPhase (d : List Byte) (n : Nat) (ok : Bool) : Action := .read 1 false true d n ok

/-- R131: the latest calls while the running activation belongs to a write-class operation itself, at its step `k`. -/
def armingAtStep (s : State) (f : Activation) : Prop :=
  match f.step with
  | 4 => ∃ n, endsWith s.trace [enableCall n true]
  | 5 => ∃ n m r, endsWith s.trace [enableCall n true, statusHeader m true, statusPhase [f.loc.s] r true]
  | 6 => ∃ arm, armingCalls s.cfg arm ∧ endsWith s.trace arm
  | 7 | 8 => f.routine = .writePage → ∃ arm, armingCalls s.cfg arm ∧ endsWith s.trace arm
  | _ => True

/-- R131: the latest calls while a write-class operation waits at step 3 for `WRITE_ENABLE`. -/
def armingInEnable (s : State) (f : Activation) : Prop :=
  match f.step with
  | 2 => ∃ n, endsWith s.trace [enableCall n f.loc.ok]
  | 3 => ∃ n, endsWith s.trace [enableCall n true]
  | _ => True

/-- R131: the latest calls while a write-class operation waits at step 4 for `READ_STATUS`. -/
def armingInStatus (s : State) (f : Activation) : Prop :=
  match f.step with
  | 1 => ∃ n, endsWith s.trace [enableCall n true]
  | 2 => ∃ n m, endsWith s.trace [enableCall n true, statusHeader m f.loc.ok]
  | 3 => ∃ n m, endsWith s.trace [enableCall n true, statusHeader m true]
  | 4 => ∃ n m r, endsWith s.trace [enableCall n true, statusHeader m true, statusPhase f.loc.d r f.loc.ok]
  | 5 | 6 => ∃ n m r, endsWith s.trace [enableCall n true, statusHeader m true, statusPhase f.loc.d r true]
  | _ => True

/-- R70, R131: what the latest calls are while `BULK_ERASE` or `WRITE_PAGE` is arming its command. -/
def State.armingSound (s : State) : Prop :=
  match s.pc with
  | [] => True
  | f :: rest =>
    (f.routine = .bulkErase ∨ f.routine = .writePage → armingAtStep s f) ∧
      match rest with
      | [] => True
      | g :: _ =>
        g.routine = .bulkErase ∨ g.routine = .writePage →
          (g.step = 3 → armingInEnable s f) ∧ (g.step = 4 → armingInStatus s f)

/-! ## Progress takes no part in control (R36) -/

/-- The state without the progress registers that only reporting uses, without the percentage in hand and without the events. -/
def State.withoutProgress (s : State) : State :=
  { s with
    x := { s.x with TOTAL := 0, LASTPCT := 0 }
    pc := s.pc.map fun f => { f with loc := { f.loc with p := 0 } }
    trace := s.trace.filter fun a => match a with
      | .emit _ => false
      | .write _ _ _ _ _ | .read _ _ _ _ _ _ | .delay _ | .memRead _ _ | .memWrite _ _ | .done _ _ _ => true }

/-! ## Answers under which an operation ends `Ok` -/

/-- The answers to a status read that succeeds: the two counts, which nothing examines (R110), and the byte. -/
structure Reading where
  sent : Nat
  got : Nat
  byte : Byte
deriving DecidableEq, Repr

/-- What the transport answers. -/
def Reading.answers (r : Reading) : List Answer := [.returned r.sent true [], .returned r.got true [r.byte]]

/-- What the trace shows. -/
def Reading.actions (r : Reading) : List Action := [statusHeader r.sent true, statusPhase [r.byte] r.got true]

/-- R130, R131: the entry status read, the enable and the confirming status read of a write-class operation. -/
structure Arming where
  entry : Reading
  enable : Nat
  confirm : Reading
deriving DecidableEq, Repr

/-- Neither `DeviceBusy` nor `WriteEnableNotSet`. -/
def Arming.good (c : Cfg) (r : Arming) : Prop := busy r.entry.byte = false ∧ confirmFails c r.confirm.byte = false

/-- What the transport answers. -/
def Arming.answers (r : Arming) : List Answer :=
  r.entry.answers ++ .returned r.enable true [] :: r.confirm.answers

/-- What the trace shows. -/
def Arming.actions (r : Arming) : List Action :=
  r.entry.actions ++ enableCall r.enable true :: r.confirm.actions

/-- R135: the polls of a wait loop: any number that show the device busy, then one that does not. -/
structure Polls where
  busy : List Reading
  last : Reading
deriving DecidableEq, Repr

/-- The loop ends at `last`. -/
def Polls.good (p : Polls) : Prop := (∀ r ∈ p.busy, Machine.busy r.byte = true) ∧ Machine.busy p.last.byte = false

/-- All the polls in order. -/
def Polls.readings (p : Polls) : List Reading := p.busy ++ [p.last]

/-- A run of `BULK_ERASE`: the arming, the count of the erase frame, the polls. -/
structure EraseRun where
  arm : Arming
  sent : Nat
  polls : Polls
deriving DecidableEq, Repr

/-- No error on the way. -/
def EraseRun.good (c : Cfg) (r : EraseRun) : Prop := r.arm.good c ∧ r.polls.good

/-- What the transport answers. -/
def EraseRun.answers (r : EraseRun) : List Answer :=
  r.arm.answers ++ .returned r.sent true [] :: r.polls.readings.flatMap Reading.answers

/-- What the trace shows (R132): before each poll a delay, after each poll an event. -/
def EraseRun.actions (c : Cfg) (r : EraseRun) : List Action :=
  r.arm.actions ++ .write [opBe] true true r.sent true ::
    r.polls.readings.flatMap fun q => .delay c.T_ERASE_POLL :: q.actions ++ [.emit .spin]

/-- A run of `WRITE_PAGE`: the arming and the polls; the count of the program frame must be the frame's length. -/
structure PageRun where
  arm : Arming
  polls : Polls
deriving DecidableEq, Repr

/-- No error on the way. -/
def PageRun.good (c : Cfg) (r : PageRun) : Prop := r.arm.good c ∧ r.polls.good

/-- What the transport answers for a chunk of `n` bytes. -/
def PageRun.answers (n : Nat) (r : PageRun) : List Answer :=
  r.arm.answers ++ .returned (4 + n) true [] :: r.polls.readings.flatMap Reading.answers

/-- What the trace shows (R133) for the chunk of `WBUF` from index `i`, programmed at `a`: one delay, and no event. -/
def PageRun.actions (c : Cfg) (a : BitVec 32) (i : Nat) (chunk : List Byte) (r : PageRun) : List Action :=
  r.arm.actions ++ [.memRead i chunk.length, .write (programFrame c a chunk) true true (4 + chunk.length) true,
    .delay c.T_PAGE_SETTLE] ++ r.polls.readings.flatMap Reading.actions

/-- A run of `READ_PAGE`: the entry status read, the count of the header, the data. -/
structure ReadRun where
  entry : Reading
  sent : Nat
  data : List Byte
deriving DecidableEq, Repr

/-- Not busy at entry, and as many bytes as asked for. -/
def ReadRun.good (n : Nat) (r : ReadRun) : Prop := busy r.entry.byte = false ∧ r.data.length = n

/-- What the transport answers. -/
def ReadRun.answers (r : ReadRun) : List Answer :=
  r.entry.answers ++ [.returned r.sent true [], .returned r.data.length true r.data]

/-- What the trace shows (R134). -/
def ReadRun.actions (a : BitVec 32) (r : ReadRun) : List Action :=
  r.entry.actions ++ [.write (readHeader a) true false r.sent true,
    .read r.data.length false true r.data r.data.length true]

/-! ## Chunks (R160) -/

/-- R160: the number of chunks of a request. -/
def chunkCount (c : Cfg) (len : Nat) : Nat := (len + c.PACKET_SIZE - 1) / c.PACKET_SIZE

/-- R160: the length of chunk `k`. -/
def chunkLen (c : Cfg) (len k : Nat) : Nat := min (len - k * c.PACKET_SIZE) c.PACKET_SIZE

/-- R160: the address of chunk `k`. -/
def chunkAddr (c : Cfg) (k : Nat) : BitVec 32 := BitVec.ofNat 32 (k * c.PACKET_SIZE)

/-- The bytes of the write calls of a trace whose first byte is `op`. -/
def framesSent (op : Byte) (acts : List Action) : List (List Byte) :=
  acts.filterMap fun a => match a with
    | .write bytes _ _ _ _ => if bytes.head? = some op then some bytes else none
    | .read _ _ _ _ _ _ | .delay _ | .emit _ | .memRead _ _ | .memWrite _ _ | .done _ _ _ => none

/-- The percentages of the `Progress` events of a trace. -/
def progressSent (acts : List Action) : List Nat :=
  acts.filterMap fun a => match a with
    | .emit (.progress p) => some p.toNat
    | .emit .spin => none
    | .write _ _ _ _ _ | .read _ _ _ _ _ _ | .delay _ | .memRead _ _ | .memWrite _ _ | .done _ _ _ => none

/-- R166: of a list of percentages, those that differ from the one before, the first being compared with `last`. -/
def changes (last : Nat) : List Nat → List Nat
  | [] => []
  | p :: r => if p = last then changes last r else p :: changes p r

/-- R166: the percentage after each chunk. -/
def chunkPercents (c : Cfg) (len : Nat) : List Nat :=
  (List.range (chunkCount c len)).map fun k => 100 * min ((k + 1) * c.PACKET_SIZE) len / len

/-- R162: the program frames of `WRITE_ALL`: chunk `k` of `WBUF` at address `k * PACKET_SIZE`. -/
def writeAllFrames (s : State) (len : Nat) : List (List Byte) :=
  (List.range (chunkCount s.cfg len)).map fun k =>
    programFrame s.cfg (chunkAddr s.cfg k) (wbufBytes (k * s.cfg.PACKET_SIZE) (chunkLen s.cfg len k) s)

/-- R163: the read headers of `READ_ALL`. -/
def readAllHeaders (c : Cfg) (len : Nat) : List (List Byte) :=
  (List.range (chunkCount c len)).map fun k => readHeader (chunkAddr c k)

/-- Answers for every chunk of `WRITE_ALL`: one page run for each. -/
def writeAllAnswers (c : Cfg) (len : Nat) (runs : List PageRun) : List Answer :=
  (runs.zipIdx.map fun r => r.1.answers (chunkLen c len r.2)).flatten

/-- Runs for every chunk of `WRITE_ALL`, without an error. -/
def writeRunsGood (c : Cfg) (len : Nat) (runs : List PageRun) : Prop :=
  runs.length = chunkCount c len ∧ ∀ r ∈ runs, r.good c

/-- Runs for every chunk of `READ_ALL`, without an error. -/
def readRunsGood (c : Cfg) (len : Nat) (runs : List ReadRun) : Prop :=
  runs.length = chunkCount c len ∧ ∀ r ∈ runs.zipIdx, r.1.good (chunkLen c len r.2)

/-- The bytes a `READ_ALL` receives, each through `swz` (R84). -/
def bytesRead (c : Cfg) (runs : List ReadRun) : List Byte := (runs.flatMap ReadRun.data).map (swz c)

end Sys2Proof.Machine
end

