-- ==== Sys2Proof/Certificates/Slice0/Obligations.lean ====
section
/-! DEFINITION. The statements for the provers. Each docstring names the rules of spec/ the statement formalises. -/

open Sys2Proof Sys2Proof.Machine

/-! ## Encodings -/

/-- R87, R88, R81 to R84: decoding the code of an instruction gives it back, with every operand at every value. -/
def Obligations.DecodeOfEncodeIsTheInstruction : Prop :=
  ∀ i : Instr, decode (encode i) = .ok i

/-- R80, R82, R85: a byte sequence that the decoder takes for a frame is that frame's one encoding. Which sequences the decoder refuses
is the model's reading (log entry 22). -/
def Obligations.DecodedFrameHasOneByteSequence : Prop :=
  ∀ (bytes : List Byte) (i : Instr), decodeFrame bytes = .ok i → i.isFrame = true ∧ encode i = .frame bytes

/-- R88: each operation code, with the operands it uses; R89: nothing else of the word matters. That the decoder refuses a reserved
code is the model's choice (log entry 22); the command itself is accepted and completes (R90, `IllegalCommandsCompleteAtOnce`). -/
def Obligations.OperationCodesNameTheOperations : Prop :=
  ∀ w : BitVec 64,
    (opField w = 0x00 → decodeCommand w = .ok .readStatus) ∧
    (opField w = 0x01 → decodeCommand w = .ok .writeEnable) ∧
    (opField w = 0x02 → decodeCommand w = .ok .writeDisable) ∧
    (opField w = 0x03 → decodeCommand w = .ok .readId) ∧
    (opField w = 0x04 → decodeCommand w = .ok .bulkErase) ∧
    (opField w = 0x05 → decodeCommand w = .ok (.writePage (addrField w) (argField w))) ∧
    (opField w = 0x06 → decodeCommand w = .ok (.readPage (addrField w) (argField w))) ∧
    (opField w = 0x07 → decodeCommand w = .ok (.reverseBits ((argField w).setWidth 8))) ∧
    (opField w = 0x08 → decodeCommand w = .ok (.writeAll (argField w))) ∧
    (opField w = 0x09 → decodeCommand w = .ok (.readAll (argField w))) ∧
    (opField w = 0x0A → decodeCommand w = .ok .isEmpty) ∧
    (opField w = 0x0B → decodeCommand w = .ok (.programAndVerify (argField w))) ∧
    (0x0C ≤ (opField w).toNat → decodeCommand w = .error (.reservedOperation (opField w)))

/-- R82: the seven opcodes, each an exact match, and R83's address bytes. R86 says of any other first byte only that the block never
emits it; that the decoder refuses it is the model's reading (log entry 22). -/
def Obligations.OpcodeBytesNameTheFrames : Prop :=
  decodeFrame [0x05] = .ok .rdsr ∧ decodeFrame [0x06] = .ok .wren ∧ decodeFrame [0x04] = .ok .wrdi ∧
  decodeFrame [0x9F] = .ok .rdid ∧ decodeFrame [0xC7] = .ok .be ∧
  (∀ a payload, decodeFrame (0x02 :: a.extractLsb' 16 8 :: a.extractLsb' 8 8 :: a.extractLsb' 0 8 :: payload) =
    .ok (.pp a payload)) ∧
  (∀ a : BitVec 24, decodeFrame [0x03, a.extractLsb' 16 8, a.extractLsb' 8 8, a.extractLsb' 0 8] = .ok (.read a)) ∧
  (∀ (op : Byte) (rest : List Byte), op ∉ [0x05#8, 0x06#8, 0x04#8, 0x9F#8, 0xC7#8, 0x02#8, 0x03#8] →
    decodeFrame (op :: rest) = .error (.unknownOpcode op))

/-- Words written out in 95_test_vectors.md sections 2.1, 2.2 and 2.4; that the decoder refuses the reserved one is the model's choice
(log entry 22). -/
def Obligations.WordsOfTheSpecDecode : Prop :=
  decodeCommand 0x0500000400000004 = .ok (.writePage 0x000004 4) ∧
  decodeCommand 0x0601234500000000 = .ok (.readPage 0x012345 0) ∧
  decodeCommand 0x07000000FFFFFF01 = .ok (.reverseBits 0x01) ∧
  decodeCommand 0x08FFFFFF0000000A = .ok (.writeAll 10) ∧
  decodeCommand 0x04ABCDEF12345678 = .ok .bulkErase ∧
  decodeCommand 0x0C00000000000000 = .error (.reservedOperation 0x0C) ∧
  decodeFrame [0x02, 0x01, 0x23, 0x45, 0xDE, 0xAD] = .ok (.pp 0x012345 [0xDE, 0xAD]) ∧
  decodeFrame [0x03, 0x3F, 0xFF, 0x00] = .ok (.read 0x3FFF00)

/-! ## The step -/

/-- R30, R31, R71: a step of the idle block is `exec` of the presented command's instruction, on the state from which the command
has been taken; a step of a running activation that sends a frame is `exec` of that frame; a reset input that is listed and not
asserted only moves on. -/
def Obligations.StepRunsTheDecodedInstruction : Prop :=
  (∀ (s : State) (c : Command) (rest : List Command) (i : Instr),
    s.resetLine = [] → s.pc = [] → s.port = c :: rest → decodeCommand c.word = .ok i →
      step s = exec i (s.taken c rest)) ∧
  (∀ (s : State) (f : Activation) (r : List Activation) (bytes : List Byte) (i : Instr),
    s.resetLine = [] → s.pc = f :: r → f.outgoing = some bytes → decodeFrame bytes = .ok i →
      step s = exec i s) ∧
  (∀ (s : State) (l : List Bool), s.resetLine = false :: l → step s = sequencerStep (s.withResetLine l))

/-- R38, R230: after reset the control stack is empty, and the block runs nothing until the host presents a command word. The
configuration is the default one (R21 to R26), the model's choice of a configuration to reset to (log entry 1). -/
def Obligations.ResetIsIdleAndRunsNothing : Prop :=
  State.reset.pc = [] ∧ State.reset.cfg = Cfg.standard ∧ State.reset.cfg.wf ∧ step State.reset = .next State.reset

/-- R38, R230, R233: asserting reset at any time empties the control stack, leaves the configuration, and makes no call, no delay,
no event, no buffer access and no `Done`; in IDLE it touches nothing outside the block either. Once released the block accepts a
command, and runs nothing until one is presented. Of the registers nothing is said (R38), nor of `RBUF`, the line and the transport
where an operation was running (R232; the model's form of reset is log entry 17). -/
def Obligations.ResetAtAnyTime : Prop :=
  ∀ (s : State) (l : List Bool), s.resetLine = true :: l →
    ∃ t, step s = .next t ∧ t.pc = [] ∧ t.cfg = s.cfg ∧ t.trace = s.trace ∧ t.calls = s.calls ∧ t.WBUF = s.WBUF ∧
      t.port = s.port ∧ t.resetLine = l ∧
      (s.pc = [] → t.RBUF = s.RBUF ∧ t.oracle = s.oracle ∧ t.chipSelect = s.chipSelect) ∧
      (l = [] → t.port = [] → step t = .next t) ∧
      (l = [] → ∀ c rest, t.port = c :: rest → ∃ u, step t = .next u ∧ u.port = rest)

/-- R30, R31: a command is accepted in IDLE only, which pushes `(OP, 1)` and changes nothing else; outside IDLE a presented command
waits, neither taken nor dropped. Names the twelve operations. That acceptance is what `exec` answers is log entry 26, and that a page
operation's length is checked in the same step is log entry 13: the model's readings. -/
def Obligations.CommandsAreAcceptedInIdleOnly : Prop :=
  ∀ s : State,
    (s.pc = [] →
      exec .readStatus s = .next { s with pc := [{ routine := .readStatus, step := 1 }] } ∧
      exec .writeEnable s = .next { s with pc := [{ routine := .writeEnable, step := 1 }] } ∧
      exec .writeDisable s = .next { s with pc := [{ routine := .writeDisable, step := 1 }] } ∧
      exec .readId s = .next { s with pc := [{ routine := .readId, step := 1 }] } ∧
      exec .bulkErase s = .next { s with pc := [{ routine := .bulkErase, step := 1 }] } ∧
      exec .isEmpty s = .next { s with pc := [{ routine := .isEmpty, step := 1 }] } ∧
      (∀ b, exec (.reverseBits b) s = .next { s with pc := [{ routine := .reverseBits, step := 1, loc := { b := b } }] }) ∧
      (∀ n : BitVec 32, exec (.writeAll n) s =
        .next { s with pc := [{ routine := .writeAll, step := 1, loc := { len := n.toNat } }] }) ∧
      (∀ n : BitVec 32, exec (.readAll n) s =
        .next { s with pc := [{ routine := .readAll, step := 1, loc := { len := n.toNat, sink := .toRbuf } }] }) ∧
      (∀ n : BitVec 32, exec (.programAndVerify n) s =
        .next { s with pc := [{ routine := .programAndVerify, step := 1, loc := { len := n.toNat } }] }) ∧
      (∀ (a : BitVec 24) (n : BitVec 32), n.toNat ≤ s.cfg.PACKET_SIZE →
        exec (.writePage a n) s = .next { s with
          pc := [{ routine := .writePage, step := 1, loc := { a := a.setWidth 32, i := 0, n := n.toNat } }] } ∧
        exec (.readPage a n) s = .next { s with
          pc := [{ routine := .readPage, step := 1, loc := { a := a.setWidth 32, n := n.toNat } }] })) ∧
    (s.pc ≠ [] → (∀ i : Instr, i.isFrame = false → exec i s = .next s) ∧ ∀ t, step s = .next t → t.port = s.port)

/-- R90, R196, R198: a reserved operation code, and a host page operation longer than a packet, are accepted in IDLE and complete at
once with `IllegalCommand`, `FLAG` 0: no call, no delay, no event, no buffer access, no working register. That the length of a page
operation, the pseudocode's step 0, is checked in the accepting step is the model's reading (log entry 13). -/
def Obligations.IllegalCommandsCompleteAtOnce : Prop :=
  (∀ (s : State) (c : Command) (rest : List Command),
    s.resetLine = [] → s.pc = [] → s.port = c :: rest → 0x0C ≤ (opField c.word).toNat →
      ∃ t, step s = .next t ∧ EndsAs (s.taken c rest) t (.fail .illegalCommand) none (some false) [] ∧
        t.x = s.x ∧ t.RBUF = s.RBUF ∧ t.oracle = s.oracle ∧ t.calls = s.calls ∧ t.chipSelect = s.chipSelect) ∧
  (∀ (s : State) (a : BitVec 24) (n : BitVec 32) (i : Instr),
    s.pc = [] → s.cfg.PACKET_SIZE < n.toNat → i = .writePage a n ∨ i = .readPage a n →
      ∃ t, exec i s = .next t ∧ EndsAs s t (.fail .illegalCommand) none (some false) [] ∧
        t.x = s.x ∧ t.RBUF = s.RBUF ∧ t.oracle = s.oracle ∧ t.calls = s.calls ∧ t.chipSelect = s.chipSelect)

/-! ## Frames -/

/-- R53, R55, R80, R82: `RDSR`, `WREN`, `WRDI`, `RDID`, `BE`, `PP` and `READ` each make one transport call with exactly their bytes,
chip-select asserted, and released where the frame is the whole transaction; the call's count and result become local values of
the running activation, which goes on at its next step. Nothing else changes. -/
def Obligations.FramesAreHandedToTheTransport : Prop :=
  ∀ (i : Instr) (s : State) (n : Nat) (ok : Bool) (d : List Byte) (rest : List Answer),
    i.isFrame = true → s.oracle = .script (.returned n ok d :: rest) →
      ∃ bytes, encode i = .frame bytes ∧
        exec i s = .next { s with
          oracle := .script rest
          calls := s.calls + 1
          trace := s.trace ++ [.write bytes true (shapeA i) n ok]
          chipSelect := if ok then (if shapeA i then .released else .asserted) else .unknown
          pc := match s.pc with
            | [] => []
            | f :: r => { f with step := f.step + 1, loc := { f.loc with cnt := n, ok := ok } } :: r }

/-- R53, R252: while a transport call does not return, the block takes no step: sending a frame, and the read phase of a transaction. -/
def Obligations.CallThatNeverReturnsHoldsTheBlock : Prop :=
  ∀ (s : State) (rest : List Answer), s.oracle = .script (.neverReturns :: rest) →
    (∀ i : Instr, i.isFrame = true → exec i s = .next s) ∧ ∀ n, readPhase n s = .next s

/-- R66, R72 on the reference device of 95_test_vectors.md section 0 (log entry 5): `WREN` sets the latch, `WRDI` clears it; on an idle
device with the latch set `BE` makes every byte read as `0xFF` and `PP` inside the capacity programs byte `k` of its payload at `a + k`
and no other byte, and the latch stays set as long as the device is busy; a device that is busy, or whose latch is clear, ignores both. -/
def Obligations.ReferenceDeviceTakesTheFrames : Prop :=
  ∀ (s : State) (d : Device), s.oracle = .device d →
    (∃ t, exec .wren s = .next t ∧ t.oracle = .device { d with wel := true, held := [] }) ∧
    (∃ t, exec .wrdi s = .next t ∧ t.oracle = .device { d with wel := false, held := [] }) ∧
    (d.busy = 0 → d.wel = true →
      ∃ t e, exec .be s = .next t ∧ t.oracle = .device e ∧ e.busy = d.ke ∧ e.wel = decide (d.ke ≠ 0) ∧
        ∀ k, e.flash.read k = some 0xFF) ∧
    (d.busy = 0 → d.wel = true → d.flash.wf →
      ∀ (a : BitVec 24) (payload : List Byte), a.toNat + payload.length ≤ s.cfg.CAPACITY →
        ∃ t e, exec (.pp a payload) s = .next t ∧ t.oracle = .device e ∧ e.busy = d.kp ∧ e.wel = decide (d.kp ≠ 0) ∧
          ∀ k, e.flash.read k =
            if a.toNat ≤ k ∧ k < a.toNat + payload.length then payload[k - a.toNat]? else d.flash.read k) ∧
    (d.busy ≠ 0 ∨ d.wel = false →
      (∃ t, exec .be s = .next t ∧ t.oracle = .device { d with held := [] }) ∧
      ∀ (a : BitVec 24) (payload : List Byte), a.toNat + payload.length ≤ s.cfg.CAPACITY →
        ∃ t, exec (.pp a payload) s = .next t ∧ t.oracle = .device { d with held := [] })

/-- R66, R72, R97 on the reference device of 95_test_vectors.md section 0 (log entry 5): a `READ_STATUS` returns bit 0 set while the device is
busy and bit 1 set while its latch is, takes the countdown on by one, and where that ends clears the latch; the flash is untouched. -/
def Obligations.ReferenceDeviceShowsItsStatus : Prop :=
  ∀ (s : State) (d : Device), s.pc = [] → s.resetLine = [] → s.oracle = .device d →
    ∃ t b, Completes .readStatus s t ∧
      EndsAs s t .ok (some b) none [statusHeader 1 true, statusPhase [b] 1 true] ∧
      (busy b = true ↔ d.busy ≠ 0) ∧ (wel b = true ↔ d.wel = true) ∧ b &&& 0xFC = 0 ∧
      t.oracle = .device { d with busy := d.busy - 1, wel := d.wel && decide (d.busy ≠ 1), held := [] }

/-- R232, R252: a call that never returns holds the block where it is, and reset is the way out: it ends the operation without a `Done`,
and the call is dropped with it, so that the transport answers the calls to come by what its script holds next (the model's choice,
log entry 27). -/
def Obligations.ResetEndsACallThatNeverReturns : Prop :=
  ∀ (s : State) (f : Activation) (r : List Activation) (rest : List Answer),
    s.pc = f :: r → f.makesCall = true → s.oracle = .script (.neverReturns :: rest) →
      (s.resetLine = [] → s.controlSound → step s = .next s) ∧
      (∀ l, s.resetLine = true :: l →
        ∃ t, step s = .next t ∧ t.pc = [] ∧ t.trace = s.trace ∧ t.oracle = .script rest ∧ t.resetLine = l)

/-! ## Status and control operations -/

/-- R111: `READ_STATUS`. It ends `Ok` with the byte the read phase gave, whatever the two counts; a failed phase ends it with
`TransportError`, and after a failed first phase the second call is not made. A read phase that supplies no byte gives some value. -/
def Obligations.ReadStatusReturnsTheDevicesByte : Prop :=
  ∀ (s : State) (n m : Nat) (d d' : List Byte) (rest : List Answer), s.pc = [] → s.resetLine = [] →
    (s.oracle = .script (.returned n true d :: .returned m true d' :: rest) →
      ∃ t v, Completes .readStatus s t ∧ (∀ b, d'.head? = some b → v = b) ∧
        EndsAs s t .ok (some v) none [.write [0x05] true false n true, .read 1 false true [v] m true] ∧
        t.x = { s.x with STATUS := v } ∧ t.RBUF = s.RBUF ∧ t.chipSelect = .released ∧ t.oracle = .script rest) ∧
    (s.oracle = .script (.returned n true d :: .returned m false d' :: rest) →
      ∃ t v, Completes .readStatus s t ∧
        EndsAs s t (.fail .transportError) none (some false)
          [.write [0x05] true false n true, .read 1 false true [v] m false] ∧
        t.x = s.x ∧ t.RBUF = s.RBUF ∧ t.chipSelect = .unknown ∧ t.oracle = .script rest) ∧
    (s.oracle = .script (.returned n false d :: rest) →
      ∃ t, Completes .readStatus s t ∧
        EndsAs s t (.fail .transportError) none (some false) [.write [0x05] true false n false] ∧
        t.x = s.x ∧ t.RBUF = s.RBUF ∧ t.chipSelect = .unknown ∧ t.oracle = .script rest)

/-- R112, R113: `WRITE_ENABLE` and `WRITE_DISABLE` each make one call, `0x06` or `0x04`, and end by its result alone. -/
def Obligations.WriteEnableAndDisableSendOneByte : Prop :=
  ∀ (s : State) (n : Nat) (ok : Bool) (d : List Byte) (rest : List Answer), s.pc = [] → s.resetLine = [] →
    s.oracle = .script (.returned n ok d :: rest) →
      ∀ i op, (i = Instr.writeEnable ∧ op = 0x06#8) ∨ (i = Instr.writeDisable ∧ op = 0x04#8) →
        ∃ t, Completes i s t ∧ t.x = s.x ∧ t.RBUF = s.RBUF ∧ t.oracle = .script rest ∧
          (ok = true → EndsAs s t .ok none none [.write [op] true true n true] ∧ t.chipSelect = .released) ∧
          (ok = false → EndsAs s t (.fail .transportError) none (some false) [.write [op] true true n false] ∧
            t.chipSelect = .unknown)

/-- R114: `READ_ID` stores the three bytes received at `RBUF[0..2]`, whatever the counts; a failed phase ends it with `TransportError`. -/
def Obligations.ReadIdStoresThreeBytes : Prop :=
  ∀ (s : State) (n m : Nat) (d d' : List Byte) (rest : List Answer), s.pc = [] → s.resetLine = [] →
    (s.oracle = .script (.returned n true d :: .returned m true d' :: rest) →
      ∃ t id, Completes .readId s t ∧ id.length = 3 ∧ (∀ k b, k < 3 → d'[k]? = some b → id[k]? = some b) ∧
        EndsAs s t .ok none none
          [.write [0x9F] true false n true, .read 3 false true id m true, .memWrite 0 id] ∧
        t.x = s.x ∧ t.RBUF = s.RBUF.writeBytes 0 id ∧ t.chipSelect = .released ∧ t.oracle = .script rest) ∧
    (s.oracle = .script (.returned n true d :: .returned m false d' :: rest) →
      ∃ t id, Completes .readId s t ∧
        EndsAs s t (.fail .transportError) none (some false)
          [.write [0x9F] true false n true, .read 3 false true id m false] ∧
        t.x = s.x ∧ t.oracle = .script rest) ∧
    (s.oracle = .script (.returned n false d :: rest) →
      ∃ t, Completes .readId s t ∧
        EndsAs s t (.fail .transportError) none (some false) [.write [0x9F] true false n false] ∧
        t.x = s.x ∧ t.oracle = .script rest)

/-- R115: the two predicates on a status byte, by their masks, and the write-enable confirmation in both configurations. -/
def Obligations.StatusDecisionsAreTheMasks : Prop :=
  ∀ (c : Cfg) (s : Byte), (busy s = true ↔ s &&& 0x01 ≠ 0) ∧ (wel s = true ↔ s &&& 0x02 ≠ 0) ∧
    (c.WEL_CHECK_LITERAL = false → (confirmFails c s = true ↔ s &&& 0x02 = 0)) ∧
    (c.WEL_CHECK_LITERAL = true → confirmFails c s = false)

/-! ## Erase and page operations -/

/-- R132, R135, R214: `BULK_ERASE`, for any number of polls that show the device busy: entry check, enable, confirmation, the erase
frame, then before each poll a delay and after each poll one `Spin`, until a poll shows bit 0 clear. -/
def Obligations.BulkEraseRunsUntilThePollIsClear : Prop :=
  ∀ (s : State) (r : EraseRun) (rest : List Answer), s.pc = [] → s.resetLine = [] → r.good s.cfg →
    s.oracle = .script (r.answers ++ rest) →
      ∃ t, Completes .bulkErase s t ∧ EndsAs s t .ok none none (r.actions s.cfg) ∧
        t.x = { s.x with STATUS := r.polls.last.byte } ∧ t.RBUF = s.RBUF ∧ t.chipSelect = .released ∧ t.oracle = .script rest

/-- R203, R252, U6: polling is unbounded: while every poll shows the device busy, `BULK_ERASE` goes on, with one delay and one `Spin`
for each poll, and has not ended after any number of them. -/
def Obligations.BusyDeviceKeepsBulkErasePolling : Prop :=
  ∀ (s : State) (l : Locals) (polls : List Reading) (rest : List Answer),
    s.pc = [{ routine := .bulkErase, step := 8, loc := l }] → s.resetLine = [] →
    (∀ r ∈ polls, busy r.byte = true) → s.oracle = .script (polls.flatMap Reading.answers ++ rest) →
      ∃ t l', runToIdle (10 * polls.length) s = .next t ∧ t.pc = [{ routine := .bulkErase, step := 8, loc := l' }] ∧
        t.trace = s.trace ++ (polls.flatMap fun q => .delay s.cfg.T_ERASE_POLL :: q.actions ++ [.emit .spin]) ∧
        t.oracle = .script rest

/-- R133, R135: `WRITE_PAGE`, for any address, any length up to a packet and any number of polls that show the device busy: the chunk
is `WBUF` from index 0, only its bytes pass through `swz`, one delay, no event. -/
def Obligations.WritePageProgramsTheChunk : Prop :=
  ∀ (s : State) (a : BitVec 24) (n : BitVec 32) (r : PageRun) (rest : List Answer), s.pc = [] → s.resetLine = [] →
    n.toNat ≤ s.cfg.PACKET_SIZE → r.good s.cfg → s.oracle = .script (r.answers n.toNat ++ rest) →
      ∃ t, Completes (.writePage a n) s t ∧
        EndsAs s t .ok none none (r.actions s.cfg (a.setWidth 32) 0 (wbufBytes 0 n.toNat s)) ∧
        t.x = { s.x with STATUS := r.polls.last.byte } ∧ t.RBUF = s.RBUF ∧ t.chipSelect = .released ∧ t.oracle = .script rest

/-- R134: `READ_PAGE`, for any address and any length up to a packet: the bytes received, each through `swz`, are stored at
`RBUF[0..n-1]`. The line is released (R55); after a read of no byte it is unknown (R134 (b), N14), the model's choice (log entry 16). -/
def Obligations.ReadPageStoresTheBytes : Prop :=
  ∀ (s : State) (a : BitVec 24) (n : BitVec 32) (r : ReadRun) (rest : List Answer), s.pc = [] → s.resetLine = [] →
    n.toNat ≤ s.cfg.PACKET_SIZE → r.good n.toNat → s.oracle = .script (r.answers ++ rest) →
      ∃ t, Completes (.readPage a n) s t ∧
        EndsAs s t .ok none none
          (r.actions (a.setWidth 32) ++ [.memWrite 0 (r.data.map (swz s.cfg))]) ∧
        t.x = { s.x with STATUS := r.entry.byte } ∧ t.RBUF = s.RBUF.writeBytes 0 (r.data.map (swz s.cfg)) ∧
        t.chipSelect = (if n = 0 then .unknown else .released) ∧ t.oracle = .script rest

/-- R145: `REVERSE_BITS`: bit `7 - k` of the result is bit `k` of the operand; an involution whose fixed points are sixteen; the
operation returns it in `VALUE` whatever the configuration, with no transport call and nothing else written. -/
def Obligations.ReverseBitsReversesTheByte : Prop :=
  (∀ (b : Byte) (k : Nat), k < 8 → (rev8 b).getLsbD (7 - k) = b.getLsbD k) ∧
  (∀ b : Byte, rev8 (rev8 b) = b) ∧
  (∀ b : Byte, rev8 b = b ↔ b ∈ [0x00#8, 0x18#8, 0x24#8, 0x3C#8, 0x42#8, 0x5A#8, 0x66#8, 0x7E#8, 0x81#8, 0x99#8,
    0xA5#8, 0xBD#8, 0xC3#8, 0xDB#8, 0xE7#8, 0xFF#8]) ∧
  (∀ (w : BitVec 64), opField w = 0x07 → decodeCommand w = .ok (.reverseBits (w.setWidth 8))) ∧
  (∀ (s : State) (b : Byte), s.pc = [] → s.resetLine = [] →
    ∃ t, Completes (.reverseBits b) s t ∧ EndsAs s t .ok (some (rev8 b)) none [] ∧
      t.x = s.x ∧ t.RBUF = s.RBUF ∧ t.oracle = s.oracle ∧ t.calls = s.calls ∧ t.chipSelect = s.chipSelect)

/-! ## Chunking and verify operations -/

/-- R160, R162, R166: `WRITE_ALL` of any length up to the capacity, when every page succeeds: one program frame for each chunk, chunk `k`
of `WBUF` at address `k * PACKET_SIZE`; the registers at the end; a `Progress` event whenever the integer percentage changes, the
last one 100. -/
def Obligations.WriteAllProgramsEveryChunk : Prop :=
  ∀ (s : State) (len : BitVec 32) (runs : List PageRun) (rest : List Answer), s.pc = [] → s.resetLine = [] → s.cfg.wf →
    len.toNat ≤ s.cfg.CAPACITY → writeRunsGood s.cfg len.toNat runs →
    s.oracle = .script (writeAllAnswers s.cfg len.toNat runs ++ rest) →
      ∃ t acts, Completes (.writeAll len) s t ∧ EndsAs s t .ok none none acts ∧ t.oracle = .script rest ∧
        t.x.ADDR = len ∧ t.x.REMAIN = 0 ∧ t.x.TOTAL = len ∧ t.x.DONE = len ∧ (len ≠ 0 → t.x.LASTPCT = 100) ∧
        t.x.ALLFF = s.x.ALLFF ∧ t.x.EQ = s.x.EQ ∧ t.RBUF = s.RBUF ∧ (len ≠ 0 → t.chipSelect = .released) ∧
        framesSent opPp acts = writeAllFrames s len.toNat ∧
        progressSent acts = changes 0 (chunkPercents s.cfg len.toNat)

/-- R160, R163, R166: `READ_ALL` of any length up to the capacity, when every page succeeds: one read header for each chunk; `RBUF` holds
the bytes received, each through `swz`, in one contiguous range, and is unchanged outside it. -/
def Obligations.ReadAllFillsTheBuffer : Prop :=
  ∀ (s : State) (len : BitVec 32) (runs : List ReadRun) (rest : List Answer), s.pc = [] → s.resetLine = [] → s.cfg.wf →
    s.RBUF.wf → len.toNat ≤ s.cfg.CAPACITY → readRunsGood s.cfg len.toNat runs →
    s.oracle = .script (runs.flatMap ReadRun.answers ++ rest) →
      ∃ t acts, Completes (.readAll len) s t ∧ EndsAs s t .ok none none acts ∧ t.oracle = .script rest ∧
        t.x.ADDR = len ∧ t.x.REMAIN = 0 ∧ t.x.TOTAL = len ∧ t.x.DONE = len ∧ (len ≠ 0 → t.x.LASTPCT = 100) ∧
        t.x.ALLFF = s.x.ALLFF ∧ t.x.EQ = s.x.EQ ∧ (len ≠ 0 → t.chipSelect = .released) ∧
        (∀ k, t.RBUF.read k = if k < len.toNat then (bytesRead s.cfg runs)[k]? else s.RBUF.read k) ∧
        framesSent opRead acts = readAllHeaders s.cfg len.toNat ∧
        progressSent acts = changes 0 (chunkPercents s.cfg len.toNat)

/-- R164: `IS_EMPTY` reads the whole capacity, never stops early, stores nothing in `RBUF`, and answers whether every byte was `0xFF`. -/
def Obligations.IsEmptyAnswersWhetherAllErased : Prop :=
  ∀ (s : State) (runs : List ReadRun) (rest : List Answer), s.pc = [] → s.resetLine = [] → s.cfg.wf →
    readRunsGood s.cfg s.cfg.CAPACITY runs → s.oracle = .script (runs.flatMap ReadRun.answers ++ rest) →
      ∃ t acts, Completes .isEmpty s t ∧
        EndsAs s t .ok none (some (decide (∀ b ∈ runs.flatMap ReadRun.data, b = 0xFF))) acts ∧
        t.oracle = .script rest ∧ t.RBUF = s.RBUF ∧ t.x.EQ = s.x.EQ ∧ t.chipSelect = .released ∧
        framesSent opRead acts = readAllHeaders s.cfg s.cfg.CAPACITY

/-- R165, R218: `PROGRAM_AND_VERIFY`: the calls of the erase, then one program frame and then one read header for each chunk, and `FLAG` says
whether the bytes read back equal the image; both outcomes end `Ok`. R246, C7: an image larger than the capacity costs the erase
and then ends with `SizeExceeded`. -/
def Obligations.ProgramAndVerifyComparesTheImage : Prop :=
  ∀ (s : State) (len : BitVec 32) (e : EraseRun), s.pc = [] → s.resetLine = [] → s.cfg.wf → e.good s.cfg →
    (∀ (ws : List PageRun) (rs : List ReadRun) (rest : List Answer), len.toNat ≤ s.cfg.CAPACITY →
      writeRunsGood s.cfg len.toNat ws → readRunsGood s.cfg len.toNat rs →
      s.oracle = .script (e.answers ++ (writeAllAnswers s.cfg len.toNat ws ++ (rs.flatMap ReadRun.answers ++ rest))) →
        ∃ t acts, Completes (.programAndVerify len) s t ∧
          EndsAs s t .ok none (some (decide (bytesRead s.cfg rs = wbufBytes 0 len.toNat s))) (e.actions s.cfg ++ acts) ∧
          t.oracle = .script rest ∧ t.RBUF = s.RBUF ∧ t.x.ALLFF = s.x.ALLFF ∧ t.chipSelect = .released ∧
          framesSent opPp acts = writeAllFrames s len.toNat ∧
          framesSent opRead acts = readAllHeaders s.cfg len.toNat) ∧
    (∀ rest, s.cfg.CAPACITY < len.toNat → s.oracle = .script (e.answers ++ rest) →
      ∃ t, Completes (.programAndVerify len) s t ∧
        EndsAs s t (.fail .sizeExceeded) none (some false) (e.actions s.cfg) ∧ t.oracle = .script rest ∧ t.RBUF = s.RBUF)

/-- R161, R195: `WRITE_ALL` and `READ_ALL` of more than the capacity end with `SizeExceeded` in their first step, after no action at all:
no register, no buffer, no call. A request of the capacity or less passes that step, to step 2. -/
def Obligations.OversizedRequestsAreRejectedFirst : Prop :=
  ∀ (s : State) (len : BitVec 32) (i : Instr), s.pc = [] → s.resetLine = [] → i = .writeAll len ∨ i = .readAll len →
    (s.cfg.CAPACITY < len.toNat →
      ∃ a t, exec i s = .next a ∧ a.pc ≠ [] ∧ step a = .next t ∧
        EndsAs s t (.fail .sizeExceeded) none (some false) [] ∧
        t.x = s.x ∧ t.RBUF = s.RBUF ∧ t.oracle = s.oracle ∧ t.calls = s.calls ∧ t.chipSelect = s.chipSelect) ∧
    (len.toNat ≤ s.cfg.CAPACITY →
      ∃ a t f, exec i s = .next a ∧ step a = .next t ∧ t.pc = [f] ∧ f.step = 2 ∧ f.loc.len = len.toNat ∧
        t.x = s.x ∧ t.RBUF = s.RBUF ∧ t.trace = s.trace ∧ t.oracle = s.oracle ∧ KeepsHostSide s t)

/-- R166: one report of progress: an event and the register where the percentage has changed, neither where it has not. -/
def Obligations.ProgressIsReportedOnChange : Prop :=
  ∀ (s : State) (f : Activation) (r : List Activation), s.pc = f :: r → s.resetLine = [] →
    (f.routine = .writeAll ∧ f.step = 8) ∨ (f.routine = .readAll ∧ f.step = 9) →
      (f.loc.p ≠ s.x.LASTPCT.toNat → step s = .next { s with
        trace := s.trace ++ [.emit (.progress (BitVec.ofNat 7 f.loc.p))]
        x := { s.x with LASTPCT := BitVec.ofNat 7 f.loc.p }
        pc := { f with step := f.step + 1 } :: r }) ∧
      (f.loc.p = s.x.LASTPCT.toNat → step s = .next { s with pc := { f with step := f.step + 1 } :: r })

/-- §8 of the source, T2 of 95_test_vectors.md, R61, R62, R250: on the reference device, idle at the start (log entry 5), a `WRITE_ALL` and then a
`READ_ALL` of the same length give `RBUF` the bytes of `WBUF`, in either bit-swap mode, and leave the rest of `RBUF`. -/
def Obligations.RoundTripOnTheReferenceDevice : Prop :=
  ∀ (s : State) (d : Device) (len : BitVec 32), s.pc = [] → s.resetLine = [] → s.cfg.wf → s.RBUF.wf →
    s.oracle = .device d → d.flash.wf → d.busy = 0 → len.toNat ≤ s.cfg.CAPACITY →
      ∃ t u, Completes (.writeAll len) s t ∧ t.RESULT = Result.ok.code ∧
        Completes (.readAll len) t u ∧ u.RESULT = Result.ok.code ∧
        ∀ k, u.RBUF.read k = if k < len.toNat then (wbufBytes 0 len.toNat s)[k]? else s.RBUF.read k

/-- R214: `Spin` is emitted by the wait loop of `BULK_ERASE`, at its step 10, and by no other step of a running activation; it is the
step's only action. -/
def Obligations.SpinComesFromTheErasePollOnly : Prop :=
  ∀ (s t : State) (f : Activation) (r : List Activation), s.pc = f :: r → s.resetLine = [] → step s = .next t →
    ((∃ acts, t.trace = s.trace ++ acts ∧ .emit .spin ∈ acts) ↔ f.routine = .bulkErase ∧ f.step = 10) ∧
    (f.routine = .bulkErase → f.step = 10 → t.trace = s.trace ++ [.emit .spin])

/-! ## Errors -/

/-- R190, R198, R199, R200, R202: at whatever depth an error is raised, that one step ends the operation: the stack is empty, `RESULT` is the
error's code, `FLAG` is 0, the working registers, the transport and the line are as they were, and no action but `Done` is made. -/
def Obligations.ErrorEndsTheOperationAtAnyDepth : Prop :=
  ∀ (s : State) (f : Activation) (r : List Activation) (e : Error), s.pc = f :: r → s.resetLine = [] →
    errorAt s.cfg f = some e →
      ∃ t, step s = .next t ∧ EndsAs s t (.fail e) none (some false) [] ∧
        t.x = s.x ∧ t.oracle = s.oracle ∧ t.calls = s.calls ∧ t.chipSelect = s.chipSelect

/-- R190, "the complete list": a step of the running activation that ends the operation with an error is one the table names, with that error. -/
def Obligations.ErrorsAreRaisedNowhereElse : Prop :=
  ∀ (s t : State) (f : Activation) (r : List Activation) (e : Error) (v : Option Byte) (b : Option Bool),
    s.pc = f :: r → s.resetLine = [] → step s = .next t → t.trace = s.trace ++ [.done (.fail e) v b] →
      errorAt s.cfg f = some e

/-- R59, R90, R161: what a failing operation leaves of `RBUF`: the bytes beyond the range it stores into read as before; after
`IllegalCommand` or `SizeExceeded` all of it does. Of the range itself nothing is said, the chunks stored before the failure included
(log entry 8). -/
def Obligations.FailureKeepsTheRestOfRbuf : Prop :=
  ∀ (s t : State) (f g : Activation) (r : List Activation) (e : Error), s.pc = f :: r → s.resetLine = [] →
    s.operation = some g → s.RBUF.wf → errorAt s.cfg f = some e → step s = .next t →
      (∀ k, g.rbufRange ≤ k → t.RBUF.read k = s.RBUF.read k) ∧
      (e = .sizeExceeded ∨ e = .illegalCommand → t.RBUF = s.RBUF)

/-- R92: the numbers of the results; codes `0x7` to `0xF` are never produced. -/
def Obligations.ResultCodesAreTheTable : Prop :=
  Result.ok.code = 0x0 ∧ (Result.fail .transportError).code = 0x1 ∧ (Result.fail .deviceBusy).code = 0x2 ∧
  (Result.fail .writeEnableNotSet).code = 0x3 ∧ (Result.fail .lengthMismatch).code = 0x4 ∧
  (Result.fail .sizeExceeded).code = 0x5 ∧ (Result.fail .illegalCommand).code = 0x6 ∧
  ∀ r : Result, r.code.toNat ≤ 6

/-! ## Invariants -/

/-- R30, R168, R65, R84: every step keeps the control state one that the pseudocode has: numbered steps, callers at their calls, pages no
longer than a packet, program frames as R84 builds them. -/
def Obligations.StepKeepsTheControlStateSound : Prop :=
  ∀ s t : State, s.controlSound → step s = .next t → t.controlSound

/-- From such a control state the machine neither faults nor refuses. -/
def Obligations.SoundControlStateNeverStops : Prop :=
  ∀ s : State, s.controlSound → ∃ t, step s = .next t

/-- R30: the deepest stack is four activations. -/
def Obligations.StackIsAtMostFourDeep : Prop :=
  ∀ s : State, s.controlSound → s.pc.length ≤ 4

/-- R37: every step keeps the invariants of the chunk-loop registers. -/
def Obligations.StepKeepsTheLoopInvariants : Prop :=
  ∀ s t : State, s.cfg.wf → s.controlSound → s.loopsSound → step s = .next t → t.loopsSound

/-- R52, R58, R59: every step keeps every byte-addressed space in canonical form. -/
def Obligations.StepKeepsMemoriesCanonical : Prop :=
  ∀ s t : State, s.memoriesCanonical → step s = .next t → t.memoriesCanonical

/-- The invariants hold after reset. -/
def Obligations.ResetMeetsTheInvariants : Prop :=
  State.reset.controlSound ∧ State.reset.loopsSound ∧ State.reset.memoriesCanonical ∧ State.reset.armingSound ∧
    writesArmed State.reset.cfg State.reset.trace ∧ ∀ a ∈ State.reset.trace, a.lawful

/-- R55, R80, R86: every transport call of every step is lawful: a write hands over one of the seven frames, with the chip-select flags of its
shape, and a read is the second call of shape B. A frame is what the decoder takes for one, the model's reading (log entry 22); that the read
does not assert chip-select is the spec's own reading (R55). -/
def Obligations.StepMakesOnlyLawfulCalls : Prop :=
  ∀ s t : State, (∀ a ∈ s.trace, a.lawful) → step s = .next t → ∀ a ∈ t.trace, a.lawful

/-- R70, R131: in every trace the machine makes, an erase or program frame is immediately preceded, among the calls, by a successful enable and
the confirming status read. -/
def Obligations.WriteClassFramesAreArmed : Prop :=
  ∀ s t : State, s.controlSound → s.armingSound → writesArmed s.cfg s.trace → step s = .next t →
    t.armingSound ∧ writesArmed t.cfg t.trace

/-- R20: no step writes the configuration. -/
def Obligations.ConfigurationIsNeverWritten : Prop :=
  ∀ s t : State, step s = .next t → t.cfg = s.cfg

/-- R11: the trace only grows, by at most two actions a step; by two only where `READ_PAGE` of the host stores its bytes and completes in
its step 9 (R134; that both happen in one step is the model's reading, log entry 2). -/
def Obligations.TraceOnlyGrows : Prop :=
  ∀ s t : State, step s = .next t → ∃ acts, t.trace = s.trace ++ acts ∧ acts.length ≤ 2 ∧
    (acts.length = 2 → ∃ f, s.pc = [f] ∧ f.routine = .readPage ∧ f.step = 9 ∧
      acts = [.memWrite 0 f.loc.out, .done .ok none none])

/-- R32, R96: the result registers are written by `Done` only, which empties the control stack, and are held until the next `Done` (or reset). -/
def Obligations.OnlyDoneWritesTheResultRegisters : Prop :=
  ∀ s t : State, s.resetLine.head? ≠ some true → step s = .next t →
    (t.RESULT = s.RESULT ∧ t.VALUE = s.VALUE ∧ t.FLAG = s.FLAG) ∨
    (t.pc = [] ∧ ∃ acts r v b, t.trace = s.trace ++ acts ++ [.done r v b] ∧ t.RESULT = r.code)

/-- R28: each working register is written only by the routines its row names. -/
def Obligations.WorkingRegistersHaveTheirWriters : Prop :=
  ∀ (s t : State) (f : Activation) (r : List Activation), s.pc = f :: r → s.resetLine.head? ≠ some true → step s = .next t →
    (t.x.STATUS ≠ s.x.STATUS → f.routine = .readStatus) ∧
    (t.x.ADDR ≠ s.x.ADDR ∨ t.x.REMAIN ≠ s.x.REMAIN ∨ t.x.TOTAL ≠ s.x.TOTAL ∨ t.x.DONE ≠ s.x.DONE ∨
      t.x.LASTPCT ≠ s.x.LASTPCT → f.routine = .writeAll ∨ f.routine = .readAll) ∧
    (t.x.ALLFF ≠ s.x.ALLFF → f.routine = .isEmpty ∨ f.routine = .readAll) ∧
    (t.x.EQ ≠ s.x.EQ → f.routine = .programAndVerify ∨ f.routine = .readAll)

/-- R52, R58, R59: a running block never writes `WBUF`; it writes `RBUF` only by a `MemWrite` that the trace shows, or where the operation ends
with an error. -/
def Obligations.BuffersAreWrittenByMemWriteOnly : Prop :=
  ∀ (s t : State), s.pc ≠ [] → s.resetLine.head? ≠ some true → step s = .next t →
    t.WBUF = s.WBUF ∧
    (t.RBUF = s.RBUF ∨ (∃ i v more, t.RBUF = s.RBUF.writeBytes i v ∧ t.trace = s.trace ++ .memWrite i v :: more) ∨
      ∃ e v b, t.trace = s.trace ++ [.done (.fail e) v b])

/-- R36, R213: the total, the percentage last reported and the events take no part in control: two states that differ in them only take
steps to states that differ in them only. -/
def Obligations.ProgressTakesNoPartInControl : Prop :=
  ∀ s s' t : State, s.withoutProgress = s'.withoutProgress → step s = .next t →
    ∃ t', step s' = .next t' ∧ t.withoutProgress = t'.withoutProgress
end

