-- ==== Sys2Proof/Laws/Decode.lean ====
section
/-! SUPPORT. The fields of a command word and of an address: each field read out of what it was put into. -/

namespace Sys2Proof

@[simp] theorem opField_commandWord (o : Byte) (a : BitVec 24) (n : BitVec 32) : opField (commandWord o a n) = o := by
  unfold opField commandWord
  ext i hi
  simp [BitVec.getLsbD_eq_getElem hi, show ¬56 + i < 32 by omega, show 56 + i < 64 by omega,
    BitVec.getLsbD_of_ge a (56 + i - 32) (by omega), BitVec.getLsbD_of_ge n (56 + i) (by omega)]

@[simp] theorem addrField_commandWord (o : Byte) (a : BitVec 24) (n : BitVec 32) : addrField (commandWord o a n) = a := by
  unfold addrField commandWord
  ext i hi
  simp [BitVec.getLsbD_eq_getElem hi, show 32 + i < 56 by omega, show 32 + i < 64 by omega]

@[simp] theorem argField_commandWord (o : Byte) (a : BitVec 24) (n : BitVec 32) : argField (commandWord o a n) = n := by
  unfold argField commandWord
  ext i hi
  simp [show i < 56 by omega, show i < 64 by omega, hi]

/-- R83: the bytes of an address make that address. -/
theorem addrOfBytes_of_address (a : BitVec 24) :
    addrOfBytes (a.extractLsb' 16 8) (a.extractLsb' 8 8) (a.extractLsb' 0 8) = a := by
  unfold addrOfBytes
  ext i hi
  simp only [BitVec.getElem_or, BitVec.getElem_shiftLeft, BitVec.getElem_setWidth, BitVec.getLsbD_extractLsb']
  rcases Nat.lt_or_ge i 8 with h | h
  · simp [h, show i < 16 by omega, BitVec.getLsbD_eq_getElem hi]
  · rcases Nat.lt_or_ge i 16 with h' | h'
    · simp [h', show ¬i < 8 by omega, show i - 8 < 8 by omega, show 8 + (i - 8) = i by omega, hi]
    · simp [show ¬i < 16 by omega, show ¬i < 8 by omega, show ¬i - 8 < 8 by omega, show i - 16 < 8 by omega,
        show 16 + (i - 16) = i by omega, hi]

/-- R83: the address of three bytes has those bytes. -/
theorem addrBytes_addrOfBytes (a2 a1 a0 : Byte) : addrBytes (addrOfBytes a2 a1 a0) = [a2, a1, a0] := by
  simp only [addrBytes, addrOfBytes, List.cons.injEq, and_true]
  refine ⟨?_, ?_, ?_⟩ <;> ext i hi
  · simp [BitVec.getLsbD_eq_getElem hi, show 16 + i < 24 by omega,
      BitVec.getLsbD_of_ge a1 (16 + i - 8) (by omega), BitVec.getLsbD_of_ge a0 (16 + i) (by omega)]
  · simp [BitVec.getLsbD_eq_getElem hi, show 8 + i < 24 by omega, show 8 + i < 16 by omega]
  · simp [show i < 24 by omega, show i < 16 by omega, hi]

end Sys2Proof
end

