-- ==== Sys2Proof/Laws/Memory.lean ====
section
/-! SUPPORT. The laws of memory: every operation keeps the canonical form; a read after a write. -/

namespace Sys2Proof.Machine

/-! ## Listings -/

theorem mem_insertCell {l : List Host.Cell} {a : Nat} {b : Byte} {c : Host.Cell} (h : c ∈ insertCell l a b) :
    c = (a, b) ∨ c ∈ l := by
  induction l with
  | nil => simp [insertCell] at h; exact .inl h
  | cons d r ih =>
    unfold insertCell at h
    split_ifs at h <;> simp only [List.mem_cons] at h ⊢
    · tauto
    · tauto
    · rcases h with h | h
      · tauto
      · rcases ih h with h | h <;> tauto

theorem mem_eraseCell {l : List Host.Cell} {a : Nat} {c : Host.Cell} (h : c ∈ eraseCell l a) : c ∈ l := by
  induction l with
  | nil => simp [eraseCell] at h
  | cons d r ih =>
    unfold eraseCell at h
    split_ifs at h
    · exact List.mem_cons_of_mem _ h
    · rcases List.mem_cons.1 h with h | h
      · simp [h]
      · exact List.mem_cons_of_mem _ (ih h)

theorem insertCell_rising {l : List Host.Cell} (a : Nat) (b : Byte) (h : l.Pairwise (fun c d => c.1 < d.1)) :
    (insertCell l a b).Pairwise (fun c d => c.1 < d.1) := by
  induction l with
  | nil => simp [insertCell]
  | cons d r ih =>
    rw [List.pairwise_cons] at h
    unfold insertCell
    split_ifs with h1 h2
    · refine List.pairwise_cons.2 ⟨fun c hc => ?_, List.pairwise_cons.2 h⟩
      rcases List.mem_cons.1 hc with rfl | hc
      · exact h1
      · exact Nat.lt_trans h1 (h.1 c hc)
    · exact List.pairwise_cons.2 ⟨fun c hc => h2 ▸ h.1 c hc, h.2⟩
    · refine List.pairwise_cons.2 ⟨fun c hc => ?_, ih h.2⟩
      rcases mem_insertCell hc with rfl | hc
      · simp only; omega
      · exact h.1 c hc

theorem eraseCell_rising {l : List Host.Cell} (a : Nat) (h : l.Pairwise (fun c d => c.1 < d.1)) :
    (eraseCell l a).Pairwise (fun c d => c.1 < d.1) := by
  induction l with
  | nil => simp [eraseCell]
  | cons d r ih =>
    rw [List.pairwise_cons] at h
    unfold eraseCell
    split_ifs
    · exact h.2
    · exact List.pairwise_cons.2 ⟨fun c hc => h.1 c (mem_eraseCell hc), ih h.2⟩

theorem lookupCell_none_of_lt {l : List Host.Cell} {a : Nat} (h : ∀ c ∈ l, a < c.1) : lookupCell l a = none := by
  induction l with
  | nil => rfl
  | cons d r ih =>
    have hd := h d (by simp)
    rw [lookupCell, if_neg (by omega)]
    exact ih fun c hc => h c (List.mem_cons_of_mem _ hc)

theorem lookupCell_insertCell {l : List Host.Cell} (a k : Nat) (b : Byte) :
    lookupCell (insertCell l a b) k = if k = a then some b else lookupCell l k := by
  induction l with
  | nil => simp only [insertCell, lookupCell, eq_comm]
  | cons d r ih =>
    unfold insertCell
    by_cases h1 : a < d.1
    · rw [if_pos h1, lookupCell]; simp only [eq_comm]
    · by_cases h2 : a = d.1
      · rw [if_neg h1, if_pos h2, lookupCell, lookupCell]
        by_cases hk : a = k
        · simp [hk]
        · simp [hk, Ne.symm hk, ← h2]
      · rw [if_neg h1, if_neg h2, lookupCell, lookupCell, ih]
        by_cases hk : k = a
        · simp [hk, Ne.symm h2]
        · simp [hk]

theorem lookupCell_eraseCell {l : List Host.Cell} (h : l.Pairwise (fun c d => c.1 < d.1)) (a k : Nat) :
    lookupCell (eraseCell l a) k = if k = a then none else lookupCell l k := by
  induction l with
  | nil => simp [eraseCell, lookupCell]
  | cons d r ih =>
    rw [List.pairwise_cons] at h
    unfold eraseCell
    by_cases hd : d.1 = a
    · rw [if_pos hd]
      by_cases hk : k = a
      · rw [if_pos hk, hk]
        exact lookupCell_none_of_lt fun c hc => hd ▸ h.1 c hc
      · rw [if_neg hk, lookupCell, if_neg (fun e => hk (e.symm.trans hd))]
    · rw [if_neg hd, lookupCell, lookupCell, ih h.2]
      by_cases hk : k = a
      · simp [hk, hd]
      · simp [hk]

/-! ## One byte -/

theorem Memory.unknown_wf : Memory.unknown.wf := by simp [Memory.unknown, Memory.wf]

/-- A write keeps the canonical form. -/
theorem Memory.write_wf {m : Memory} (h : m.wf) (a : Nat) (b : Byte) : (m.write a b).wf := by
  unfold Memory.write
  split_ifs with hf
  · exact ⟨eraseCell_rising a h.1, fun c hc => h.2 c (mem_eraseCell hc)⟩
  · refine ⟨insertCell_rising a b h.1, fun c hc => ?_⟩
    rcases mem_insertCell hc with rfl | hc
    · exact hf
    · exact h.2 c hc

@[simp] theorem Memory.write_fill (m : Memory) (a : Nat) (b : Byte) : (m.write a b).fill = m.fill := by
  unfold Memory.write; split_ifs <;> rfl

/-- R61: a read after a write. -/
theorem Memory.read_write {m : Memory} (h : m.wf) (a k : Nat) (b : Byte) :
    (m.write a b).read k = if k = a then some b else m.read k := by
  by_cases hf : m.fill = some b
  · by_cases hk : k = a <;> simp [Memory.write, Memory.read, hf, lookupCell_eraseCell h.1, hk]
  · by_cases hk : k = a <;> simp [Memory.write, Memory.read, hf, lookupCell_insertCell, hk]

/-! ## Sequences -/

theorem Memory.writeBytes_wf {m : Memory} (h : m.wf) (a : Nat) (bytes : List Byte) : (m.writeBytes a bytes).wf := by
  induction bytes generalizing m a with
  | nil => exact h
  | cons b r ih => exact ih (Memory.write_wf h a b) (a + 1)

@[simp] theorem Memory.writeBytes_fill (m : Memory) (a : Nat) (bytes : List Byte) :
    (m.writeBytes a bytes).fill = m.fill := by
  induction bytes generalizing m a with
  | nil => rfl
  | cons b r ih => simp [Memory.writeBytes, ih]

theorem Memory.ofBytes_wf (bytes : List Byte) : (Memory.ofBytes bytes).wf :=
  Memory.writeBytes_wf Memory.unknown_wf 0 bytes

/-- R61: byte `k` of a sequence lands at index `k`; every other index reads as before. -/
theorem Memory.read_writeBytes {m : Memory} (h : m.wf) (a k : Nat) (bytes : List Byte) :
    (m.writeBytes a bytes).read k =
      if a ≤ k ∧ k < a + bytes.length then bytes[k - a]? else m.read k := by
  induction bytes generalizing m a with
  | nil => rw [if_neg (by simp)]; rfl
  | cons b r ih =>
    rw [Memory.writeBytes, ih (Memory.write_wf h a b), Memory.read_write h]
    by_cases hk : k = a
    · subst hk; simp
    · by_cases h1 : a + 1 ≤ k ∧ k < a + 1 + r.length
      · have h2 : a ≤ k ∧ k < a + (b :: r).length := by simp only [List.length_cons]; omega
        rw [if_pos h1, if_pos h2]
        obtain ⟨j, rfl⟩ := Nat.exists_eq_add_of_le h1.1
        rw [show a + 1 + j - (a + 1) = j by omega, show a + 1 + j - a = j + 1 by omega, List.getElem?_cons_succ]
      · have h2 : ¬(a ≤ k ∧ k < a + (b :: r).length) := by simp only [List.length_cons]; omega
        rw [if_neg h1, if_neg h2, if_neg hk]

/-- A byte outside the stored range reads as before, whatever the listing. -/
theorem Memory.read_writeBytes_outside {m : Memory} (h : m.wf) {a k : Nat} {bytes : List Byte}
    (hk : k < a ∨ a + bytes.length ≤ k) : (m.writeBytes a bytes).read k = m.read k := by
  rw [Memory.read_writeBytes h, if_neg (by omega)]

/-! ## Buffers -/

theorem drawRbuf_wf {m : Memory} (h : m.wf) (k n : Nat) : (drawRbuf k m n).wf := Memory.writeBytes_wf h 0 _

/-- R59: only the range is drawn. -/
theorem drawRbuf_outside {m : Memory} (h : m.wf) (k : Nat) {n j : Nat} (hj : n ≤ j) :
    (drawRbuf k m n).read j = m.read j :=
  Memory.read_writeBytes_outside h (.inr (by simpa using hj))

@[simp] theorem readWbuf_length (k : Nat) (m : Memory) (i n : Nat) : (readWbuf k m i n).length = n := by
  simp [readWbuf]

theorem readWbuf_getElem (k : Nat) (m : Memory) (i n j : Nat) (h : j < (readWbuf k m i n).length) :
    (readWbuf k m i n)[j] = (m.read (i + j)).getD (Config.freeWbuf k (i + j)) := by
  simp [readWbuf]

/-- R61: consecutive chunks of the buffer are the buffer. -/
theorem readWbuf_append (k : Nat) (m : Memory) (i a b : Nat) :
    readWbuf k m i (a + b) = readWbuf k m i a ++ readWbuf k m (i + a) b := by
  simp [readWbuf, List.range_add, List.map_append, Nat.add_assoc, Function.comp_def]

end Sys2Proof.Machine
end

