-- ==== Sys2Proof/Laws/State.lean ====
section
/-! SUPPORT. The fields after each named update of the state: one lemma for each field of each update, so that no proof unfolds an
update. -/

namespace Sys2Proof.Machine

/-! ## `State.log` -/

@[simp] theorem State.log_cfg (s : State) (a : Action) : (s.log a).cfg = s.cfg := rfl
@[simp] theorem State.log_x (s : State) (a : Action) : (s.log a).x = s.x := rfl
@[simp] theorem State.log_pc (s : State) (a : Action) : (s.log a).pc = s.pc := rfl
@[simp] theorem State.log_RESULT (s : State) (a : Action) : (s.log a).RESULT = s.RESULT := rfl
@[simp] theorem State.log_VALUE (s : State) (a : Action) : (s.log a).VALUE = s.VALUE := rfl
@[simp] theorem State.log_FLAG (s : State) (a : Action) : (s.log a).FLAG = s.FLAG := rfl
@[simp] theorem State.log_WBUF (s : State) (a : Action) : (s.log a).WBUF = s.WBUF := rfl
@[simp] theorem State.log_RBUF (s : State) (a : Action) : (s.log a).RBUF = s.RBUF := rfl
@[simp] theorem State.log_chipSelect (s : State) (a : Action) : (s.log a).chipSelect = s.chipSelect := rfl
@[simp] theorem State.log_port (s : State) (a : Action) : (s.log a).port = s.port := rfl
@[simp] theorem State.log_resetLine (s : State) (a : Action) : (s.log a).resetLine = s.resetLine := rfl
@[simp] theorem State.log_oracle (s : State) (a : Action) : (s.log a).oracle = s.oracle := rfl
@[simp] theorem State.log_trace (s : State) (a : Action) : (s.log a).trace = s.trace ++ [a] := rfl
@[simp] theorem State.log_calls (s : State) (a : Action) : (s.log a).calls = s.calls := rfl
@[simp] theorem State.log_draws (s : State) (a : Action) : (s.log a).draws = s.draws := rfl

/-! ## `State.withX` -/

@[simp] theorem State.withX_cfg (s : State) (x : Regs) : (s.withX x).cfg = s.cfg := rfl
@[simp] theorem State.withX_x (s : State) (x : Regs) : (s.withX x).x = x := rfl
@[simp] theorem State.withX_pc (s : State) (x : Regs) : (s.withX x).pc = s.pc := rfl
@[simp] theorem State.withX_RESULT (s : State) (x : Regs) : (s.withX x).RESULT = s.RESULT := rfl
@[simp] theorem State.withX_VALUE (s : State) (x : Regs) : (s.withX x).VALUE = s.VALUE := rfl
@[simp] theorem State.withX_FLAG (s : State) (x : Regs) : (s.withX x).FLAG = s.FLAG := rfl
@[simp] theorem State.withX_WBUF (s : State) (x : Regs) : (s.withX x).WBUF = s.WBUF := rfl
@[simp] theorem State.withX_RBUF (s : State) (x : Regs) : (s.withX x).RBUF = s.RBUF := rfl
@[simp] theorem State.withX_chipSelect (s : State) (x : Regs) : (s.withX x).chipSelect = s.chipSelect := rfl
@[simp] theorem State.withX_port (s : State) (x : Regs) : (s.withX x).port = s.port := rfl
@[simp] theorem State.withX_resetLine (s : State) (x : Regs) : (s.withX x).resetLine = s.resetLine := rfl
@[simp] theorem State.withX_oracle (s : State) (x : Regs) : (s.withX x).oracle = s.oracle := rfl
@[simp] theorem State.withX_trace (s : State) (x : Regs) : (s.withX x).trace = s.trace := rfl
@[simp] theorem State.withX_calls (s : State) (x : Regs) : (s.withX x).calls = s.calls := rfl
@[simp] theorem State.withX_draws (s : State) (x : Regs) : (s.withX x).draws = s.draws := rfl

/-! ## `State.withPc` -/

@[simp] theorem State.withPc_cfg (s : State) (pc : List Activation) : (s.withPc pc).cfg = s.cfg := rfl
@[simp] theorem State.withPc_x (s : State) (pc : List Activation) : (s.withPc pc).x = s.x := rfl
@[simp] theorem State.withPc_pc (s : State) (pc : List Activation) : (s.withPc pc).pc = pc := rfl
@[simp] theorem State.withPc_RESULT (s : State) (pc : List Activation) : (s.withPc pc).RESULT = s.RESULT := rfl
@[simp] theorem State.withPc_VALUE (s : State) (pc : List Activation) : (s.withPc pc).VALUE = s.VALUE := rfl
@[simp] theorem State.withPc_FLAG (s : State) (pc : List Activation) : (s.withPc pc).FLAG = s.FLAG := rfl
@[simp] theorem State.withPc_WBUF (s : State) (pc : List Activation) : (s.withPc pc).WBUF = s.WBUF := rfl
@[simp] theorem State.withPc_RBUF (s : State) (pc : List Activation) : (s.withPc pc).RBUF = s.RBUF := rfl
@[simp] theorem State.withPc_chipSelect (s : State) (pc : List Activation) : (s.withPc pc).chipSelect = s.chipSelect := rfl
@[simp] theorem State.withPc_port (s : State) (pc : List Activation) : (s.withPc pc).port = s.port := rfl
@[simp] theorem State.withPc_resetLine (s : State) (pc : List Activation) : (s.withPc pc).resetLine = s.resetLine := rfl
@[simp] theorem State.withPc_oracle (s : State) (pc : List Activation) : (s.withPc pc).oracle = s.oracle := rfl
@[simp] theorem State.withPc_trace (s : State) (pc : List Activation) : (s.withPc pc).trace = s.trace := rfl
@[simp] theorem State.withPc_calls (s : State) (pc : List Activation) : (s.withPc pc).calls = s.calls := rfl
@[simp] theorem State.withPc_draws (s : State) (pc : List Activation) : (s.withPc pc).draws = s.draws := rfl

/-! ## `State.withRbuf` -/

@[simp] theorem State.withRbuf_cfg (s : State) (m : Memory) : (s.withRbuf m).cfg = s.cfg := rfl
@[simp] theorem State.withRbuf_x (s : State) (m : Memory) : (s.withRbuf m).x = s.x := rfl
@[simp] theorem State.withRbuf_pc (s : State) (m : Memory) : (s.withRbuf m).pc = s.pc := rfl
@[simp] theorem State.withRbuf_RESULT (s : State) (m : Memory) : (s.withRbuf m).RESULT = s.RESULT := rfl
@[simp] theorem State.withRbuf_VALUE (s : State) (m : Memory) : (s.withRbuf m).VALUE = s.VALUE := rfl
@[simp] theorem State.withRbuf_FLAG (s : State) (m : Memory) : (s.withRbuf m).FLAG = s.FLAG := rfl
@[simp] theorem State.withRbuf_WBUF (s : State) (m : Memory) : (s.withRbuf m).WBUF = s.WBUF := rfl
@[simp] theorem State.withRbuf_RBUF (s : State) (m : Memory) : (s.withRbuf m).RBUF = m := rfl
@[simp] theorem State.withRbuf_chipSelect (s : State) (m : Memory) : (s.withRbuf m).chipSelect = s.chipSelect := rfl
@[simp] theorem State.withRbuf_port (s : State) (m : Memory) : (s.withRbuf m).port = s.port := rfl
@[simp] theorem State.withRbuf_resetLine (s : State) (m : Memory) : (s.withRbuf m).resetLine = s.resetLine := rfl
@[simp] theorem State.withRbuf_oracle (s : State) (m : Memory) : (s.withRbuf m).oracle = s.oracle := rfl
@[simp] theorem State.withRbuf_trace (s : State) (m : Memory) : (s.withRbuf m).trace = s.trace := rfl
@[simp] theorem State.withRbuf_calls (s : State) (m : Memory) : (s.withRbuf m).calls = s.calls := rfl
@[simp] theorem State.withRbuf_draws (s : State) (m : Memory) : (s.withRbuf m).draws = s.draws := rfl

/-! ## `State.withAnswered` -/

@[simp] theorem State.withAnswered_cfg (s : State) (o : Oracle) (l : Line) : (s.withAnswered o l).cfg = s.cfg := rfl
@[simp] theorem State.withAnswered_x (s : State) (o : Oracle) (l : Line) : (s.withAnswered o l).x = s.x := rfl
@[simp] theorem State.withAnswered_pc (s : State) (o : Oracle) (l : Line) : (s.withAnswered o l).pc = s.pc := rfl
@[simp] theorem State.withAnswered_RESULT (s : State) (o : Oracle) (l : Line) : (s.withAnswered o l).RESULT = s.RESULT := rfl
@[simp] theorem State.withAnswered_VALUE (s : State) (o : Oracle) (l : Line) : (s.withAnswered o l).VALUE = s.VALUE := rfl
@[simp] theorem State.withAnswered_FLAG (s : State) (o : Oracle) (l : Line) : (s.withAnswered o l).FLAG = s.FLAG := rfl
@[simp] theorem State.withAnswered_WBUF (s : State) (o : Oracle) (l : Line) : (s.withAnswered o l).WBUF = s.WBUF := rfl
@[simp] theorem State.withAnswered_RBUF (s : State) (o : Oracle) (l : Line) : (s.withAnswered o l).RBUF = s.RBUF := rfl
@[simp] theorem State.withAnswered_chipSelect (s : State) (o : Oracle) (l : Line) : (s.withAnswered o l).chipSelect = l := rfl
@[simp] theorem State.withAnswered_port (s : State) (o : Oracle) (l : Line) : (s.withAnswered o l).port = s.port := rfl
@[simp] theorem State.withAnswered_resetLine (s : State) (o : Oracle) (l : Line) : (s.withAnswered o l).resetLine = s.resetLine := rfl
@[simp] theorem State.withAnswered_oracle (s : State) (o : Oracle) (l : Line) : (s.withAnswered o l).oracle = o := rfl
@[simp] theorem State.withAnswered_trace (s : State) (o : Oracle) (l : Line) : (s.withAnswered o l).trace = s.trace := rfl
@[simp] theorem State.withAnswered_calls (s : State) (o : Oracle) (l : Line) : (s.withAnswered o l).calls = s.calls + 1 := rfl
@[simp] theorem State.withAnswered_draws (s : State) (o : Oracle) (l : Line) : (s.withAnswered o l).draws = s.draws := rfl

/-! ## `State.withRecord` -/

@[simp] theorem State.withRecord_cfg (s : State) (r : Result) (v : Option Byte) (f : Option Bool) : (s.withRecord r v f).cfg = s.cfg := rfl
@[simp] theorem State.withRecord_x (s : State) (r : Result) (v : Option Byte) (f : Option Bool) : (s.withRecord r v f).x = s.x := rfl
@[simp] theorem State.withRecord_pc (s : State) (r : Result) (v : Option Byte) (f : Option Bool) : (s.withRecord r v f).pc = s.pc := rfl
@[simp] theorem State.withRecord_RESULT (s : State) (r : Result) (v : Option Byte) (f : Option Bool) : (s.withRecord r v f).RESULT = r.code := rfl
@[simp] theorem State.withRecord_VALUE (s : State) (r : Result) (v : Option Byte) (f : Option Bool) : (s.withRecord r v f).VALUE = v.getD (Config.freeValue s.draws) := rfl
@[simp] theorem State.withRecord_FLAG (s : State) (r : Result) (v : Option Byte) (f : Option Bool) : (s.withRecord r v f).FLAG = f.getD (Config.freeFlag s.draws) := rfl
@[simp] theorem State.withRecord_WBUF (s : State) (r : Result) (v : Option Byte) (f : Option Bool) : (s.withRecord r v f).WBUF = s.WBUF := rfl
@[simp] theorem State.withRecord_RBUF (s : State) (r : Result) (v : Option Byte) (f : Option Bool) : (s.withRecord r v f).RBUF = s.RBUF := rfl
@[simp] theorem State.withRecord_chipSelect (s : State) (r : Result) (v : Option Byte) (f : Option Bool) : (s.withRecord r v f).chipSelect = s.chipSelect := rfl
@[simp] theorem State.withRecord_port (s : State) (r : Result) (v : Option Byte) (f : Option Bool) : (s.withRecord r v f).port = s.port := rfl
@[simp] theorem State.withRecord_resetLine (s : State) (r : Result) (v : Option Byte) (f : Option Bool) : (s.withRecord r v f).resetLine = s.resetLine := rfl
@[simp] theorem State.withRecord_oracle (s : State) (r : Result) (v : Option Byte) (f : Option Bool) : (s.withRecord r v f).oracle = s.oracle := rfl
@[simp] theorem State.withRecord_trace (s : State) (r : Result) (v : Option Byte) (f : Option Bool) : (s.withRecord r v f).trace = s.trace := rfl
@[simp] theorem State.withRecord_calls (s : State) (r : Result) (v : Option Byte) (f : Option Bool) : (s.withRecord r v f).calls = s.calls := rfl
@[simp] theorem State.withRecord_draws (s : State) (r : Result) (v : Option Byte) (f : Option Bool) : (s.withRecord r v f).draws = s.draws + 1 := rfl

/-! ## `State.taken` -/

@[simp] theorem State.taken_cfg (s : State) (c : Command) (rest : List Command) : (s.taken c rest).cfg = s.cfg := rfl
@[simp] theorem State.taken_x (s : State) (c : Command) (rest : List Command) : (s.taken c rest).x = s.x := rfl
@[simp] theorem State.taken_pc (s : State) (c : Command) (rest : List Command) : (s.taken c rest).pc = s.pc := rfl
@[simp] theorem State.taken_RESULT (s : State) (c : Command) (rest : List Command) : (s.taken c rest).RESULT = s.RESULT := rfl
@[simp] theorem State.taken_VALUE (s : State) (c : Command) (rest : List Command) : (s.taken c rest).VALUE = s.VALUE := rfl
@[simp] theorem State.taken_FLAG (s : State) (c : Command) (rest : List Command) : (s.taken c rest).FLAG = s.FLAG := rfl
@[simp] theorem State.taken_WBUF (s : State) (c : Command) (rest : List Command) : (s.taken c rest).WBUF = (match c.image with | some bytes => Memory.ofBytes bytes | none => s.WBUF) := rfl
@[simp] theorem State.taken_RBUF (s : State) (c : Command) (rest : List Command) : (s.taken c rest).RBUF = s.RBUF := rfl
@[simp] theorem State.taken_chipSelect (s : State) (c : Command) (rest : List Command) : (s.taken c rest).chipSelect = s.chipSelect := rfl
@[simp] theorem State.taken_port (s : State) (c : Command) (rest : List Command) : (s.taken c rest).port = rest := rfl
@[simp] theorem State.taken_resetLine (s : State) (c : Command) (rest : List Command) : (s.taken c rest).resetLine = s.resetLine := rfl
@[simp] theorem State.taken_oracle (s : State) (c : Command) (rest : List Command) : (s.taken c rest).oracle = s.oracle := rfl
@[simp] theorem State.taken_trace (s : State) (c : Command) (rest : List Command) : (s.taken c rest).trace = s.trace := rfl
@[simp] theorem State.taken_calls (s : State) (c : Command) (rest : List Command) : (s.taken c rest).calls = s.calls := rfl
@[simp] theorem State.taken_draws (s : State) (c : Command) (rest : List Command) : (s.taken c rest).draws = s.draws := rfl

/-! ## `State.withResetLine` -/

@[simp] theorem State.withResetLine_cfg (s : State) (l : List Bool) : (s.withResetLine l).cfg = s.cfg := rfl
@[simp] theorem State.withResetLine_x (s : State) (l : List Bool) : (s.withResetLine l).x = s.x := rfl
@[simp] theorem State.withResetLine_pc (s : State) (l : List Bool) : (s.withResetLine l).pc = s.pc := rfl
@[simp] theorem State.withResetLine_RESULT (s : State) (l : List Bool) : (s.withResetLine l).RESULT = s.RESULT := rfl
@[simp] theorem State.withResetLine_VALUE (s : State) (l : List Bool) : (s.withResetLine l).VALUE = s.VALUE := rfl
@[simp] theorem State.withResetLine_FLAG (s : State) (l : List Bool) : (s.withResetLine l).FLAG = s.FLAG := rfl
@[simp] theorem State.withResetLine_WBUF (s : State) (l : List Bool) : (s.withResetLine l).WBUF = s.WBUF := rfl
@[simp] theorem State.withResetLine_RBUF (s : State) (l : List Bool) : (s.withResetLine l).RBUF = s.RBUF := rfl
@[simp] theorem State.withResetLine_chipSelect (s : State) (l : List Bool) : (s.withResetLine l).chipSelect = s.chipSelect := rfl
@[simp] theorem State.withResetLine_port (s : State) (l : List Bool) : (s.withResetLine l).port = s.port := rfl
@[simp] theorem State.withResetLine_resetLine (s : State) (l : List Bool) : (s.withResetLine l).resetLine = l := rfl
@[simp] theorem State.withResetLine_oracle (s : State) (l : List Bool) : (s.withResetLine l).oracle = s.oracle := rfl
@[simp] theorem State.withResetLine_trace (s : State) (l : List Bool) : (s.withResetLine l).trace = s.trace := rfl
@[simp] theorem State.withResetLine_calls (s : State) (l : List Bool) : (s.withResetLine l).calls = s.calls := rfl
@[simp] theorem State.withResetLine_draws (s : State) (l : List Bool) : (s.withResetLine l).draws = s.draws := rfl

/-! ## `State.mapTop` -/

@[simp] theorem State.mapTop_cfg (s : State) (g : Activation → Activation) : (s.mapTop g).cfg = s.cfg := rfl
@[simp] theorem State.mapTop_x (s : State) (g : Activation → Activation) : (s.mapTop g).x = s.x := rfl
@[simp] theorem State.mapTop_pc (s : State) (g : Activation → Activation) : (s.mapTop g).pc = (match s.pc with | [] => [] | f :: r => g f :: r) := rfl
@[simp] theorem State.mapTop_RESULT (s : State) (g : Activation → Activation) : (s.mapTop g).RESULT = s.RESULT := rfl
@[simp] theorem State.mapTop_VALUE (s : State) (g : Activation → Activation) : (s.mapTop g).VALUE = s.VALUE := rfl
@[simp] theorem State.mapTop_FLAG (s : State) (g : Activation → Activation) : (s.mapTop g).FLAG = s.FLAG := rfl
@[simp] theorem State.mapTop_WBUF (s : State) (g : Activation → Activation) : (s.mapTop g).WBUF = s.WBUF := rfl
@[simp] theorem State.mapTop_RBUF (s : State) (g : Activation → Activation) : (s.mapTop g).RBUF = s.RBUF := rfl
@[simp] theorem State.mapTop_chipSelect (s : State) (g : Activation → Activation) : (s.mapTop g).chipSelect = s.chipSelect := rfl
@[simp] theorem State.mapTop_port (s : State) (g : Activation → Activation) : (s.mapTop g).port = s.port := rfl
@[simp] theorem State.mapTop_resetLine (s : State) (g : Activation → Activation) : (s.mapTop g).resetLine = s.resetLine := rfl
@[simp] theorem State.mapTop_oracle (s : State) (g : Activation → Activation) : (s.mapTop g).oracle = s.oracle := rfl
@[simp] theorem State.mapTop_trace (s : State) (g : Activation → Activation) : (s.mapTop g).trace = s.trace := rfl
@[simp] theorem State.mapTop_calls (s : State) (g : Activation → Activation) : (s.mapTop g).calls = s.calls := rfl
@[simp] theorem State.mapTop_draws (s : State) (g : Activation → Activation) : (s.mapTop g).draws = s.draws := rfl

/-! ## `State.goto` -/

@[simp] theorem State.goto_cfg (s : State) (k : Nat) : (s.goto k).cfg = s.cfg := rfl
@[simp] theorem State.goto_x (s : State) (k : Nat) : (s.goto k).x = s.x := rfl
@[simp] theorem State.goto_pc (s : State) (k : Nat) : (s.goto k).pc = (match s.pc with | [] => [] | f :: r => { f with step := k } :: r) := rfl
@[simp] theorem State.goto_RESULT (s : State) (k : Nat) : (s.goto k).RESULT = s.RESULT := rfl
@[simp] theorem State.goto_VALUE (s : State) (k : Nat) : (s.goto k).VALUE = s.VALUE := rfl
@[simp] theorem State.goto_FLAG (s : State) (k : Nat) : (s.goto k).FLAG = s.FLAG := rfl
@[simp] theorem State.goto_WBUF (s : State) (k : Nat) : (s.goto k).WBUF = s.WBUF := rfl
@[simp] theorem State.goto_RBUF (s : State) (k : Nat) : (s.goto k).RBUF = s.RBUF := rfl
@[simp] theorem State.goto_chipSelect (s : State) (k : Nat) : (s.goto k).chipSelect = s.chipSelect := rfl
@[simp] theorem State.goto_port (s : State) (k : Nat) : (s.goto k).port = s.port := rfl
@[simp] theorem State.goto_resetLine (s : State) (k : Nat) : (s.goto k).resetLine = s.resetLine := rfl
@[simp] theorem State.goto_oracle (s : State) (k : Nat) : (s.goto k).oracle = s.oracle := rfl
@[simp] theorem State.goto_trace (s : State) (k : Nat) : (s.goto k).trace = s.trace := rfl
@[simp] theorem State.goto_calls (s : State) (k : Nat) : (s.goto k).calls = s.calls := rfl
@[simp] theorem State.goto_draws (s : State) (k : Nat) : (s.goto k).draws = s.draws := rfl

/-! ## `State.advanceWith` -/

@[simp] theorem State.advanceWith_cfg (s : State) (g : Locals → Locals) : (s.advanceWith g).cfg = s.cfg := rfl
@[simp] theorem State.advanceWith_x (s : State) (g : Locals → Locals) : (s.advanceWith g).x = s.x := rfl
@[simp] theorem State.advanceWith_pc (s : State) (g : Locals → Locals) : (s.advanceWith g).pc = (match s.pc with | [] => [] | f :: r => { f with step := f.step + 1, loc := g f.loc } :: r) := rfl
@[simp] theorem State.advanceWith_RESULT (s : State) (g : Locals → Locals) : (s.advanceWith g).RESULT = s.RESULT := rfl
@[simp] theorem State.advanceWith_VALUE (s : State) (g : Locals → Locals) : (s.advanceWith g).VALUE = s.VALUE := rfl
@[simp] theorem State.advanceWith_FLAG (s : State) (g : Locals → Locals) : (s.advanceWith g).FLAG = s.FLAG := rfl
@[simp] theorem State.advanceWith_WBUF (s : State) (g : Locals → Locals) : (s.advanceWith g).WBUF = s.WBUF := rfl
@[simp] theorem State.advanceWith_RBUF (s : State) (g : Locals → Locals) : (s.advanceWith g).RBUF = s.RBUF := rfl
@[simp] theorem State.advanceWith_chipSelect (s : State) (g : Locals → Locals) : (s.advanceWith g).chipSelect = s.chipSelect := rfl
@[simp] theorem State.advanceWith_port (s : State) (g : Locals → Locals) : (s.advanceWith g).port = s.port := rfl
@[simp] theorem State.advanceWith_resetLine (s : State) (g : Locals → Locals) : (s.advanceWith g).resetLine = s.resetLine := rfl
@[simp] theorem State.advanceWith_oracle (s : State) (g : Locals → Locals) : (s.advanceWith g).oracle = s.oracle := rfl
@[simp] theorem State.advanceWith_trace (s : State) (g : Locals → Locals) : (s.advanceWith g).trace = s.trace := rfl
@[simp] theorem State.advanceWith_calls (s : State) (g : Locals → Locals) : (s.advanceWith g).calls = s.calls := rfl
@[simp] theorem State.advanceWith_draws (s : State) (g : Locals → Locals) : (s.advanceWith g).draws = s.draws := rfl

/-! ## `State.advance` -/

@[simp] theorem State.advance_cfg (s : State) : (s.advance).cfg = s.cfg := rfl
@[simp] theorem State.advance_x (s : State) : (s.advance).x = s.x := rfl
@[simp] theorem State.advance_pc (s : State) : (s.advance).pc = (match s.pc with | [] => [] | f :: r => { f with step := f.step + 1 } :: r) := rfl
@[simp] theorem State.advance_RESULT (s : State) : (s.advance).RESULT = s.RESULT := rfl
@[simp] theorem State.advance_VALUE (s : State) : (s.advance).VALUE = s.VALUE := rfl
@[simp] theorem State.advance_FLAG (s : State) : (s.advance).FLAG = s.FLAG := rfl
@[simp] theorem State.advance_WBUF (s : State) : (s.advance).WBUF = s.WBUF := rfl
@[simp] theorem State.advance_RBUF (s : State) : (s.advance).RBUF = s.RBUF := rfl
@[simp] theorem State.advance_chipSelect (s : State) : (s.advance).chipSelect = s.chipSelect := rfl
@[simp] theorem State.advance_port (s : State) : (s.advance).port = s.port := rfl
@[simp] theorem State.advance_resetLine (s : State) : (s.advance).resetLine = s.resetLine := rfl
@[simp] theorem State.advance_oracle (s : State) : (s.advance).oracle = s.oracle := rfl
@[simp] theorem State.advance_trace (s : State) : (s.advance).trace = s.trace := rfl
@[simp] theorem State.advance_calls (s : State) : (s.advance).calls = s.calls := rfl
@[simp] theorem State.advance_draws (s : State) : (s.advance).draws = s.draws := rfl

/-! ## `State.call` -/

@[simp] theorem State.call_cfg (s : State) (r : Routine) (l : Locals) : (s.call r l).cfg = s.cfg := rfl
@[simp] theorem State.call_x (s : State) (r : Routine) (l : Locals) : (s.call r l).x = s.x := rfl
@[simp] theorem State.call_pc (s : State) (r : Routine) (l : Locals) : (s.call r l).pc = { routine := r, step := 1, loc := l } :: s.pc := rfl
@[simp] theorem State.call_RESULT (s : State) (r : Routine) (l : Locals) : (s.call r l).RESULT = s.RESULT := rfl
@[simp] theorem State.call_VALUE (s : State) (r : Routine) (l : Locals) : (s.call r l).VALUE = s.VALUE := rfl
@[simp] theorem State.call_FLAG (s : State) (r : Routine) (l : Locals) : (s.call r l).FLAG = s.FLAG := rfl
@[simp] theorem State.call_WBUF (s : State) (r : Routine) (l : Locals) : (s.call r l).WBUF = s.WBUF := rfl
@[simp] theorem State.call_RBUF (s : State) (r : Routine) (l : Locals) : (s.call r l).RBUF = s.RBUF := rfl
@[simp] theorem State.call_chipSelect (s : State) (r : Routine) (l : Locals) : (s.call r l).chipSelect = s.chipSelect := rfl
@[simp] theorem State.call_port (s : State) (r : Routine) (l : Locals) : (s.call r l).port = s.port := rfl
@[simp] theorem State.call_resetLine (s : State) (r : Routine) (l : Locals) : (s.call r l).resetLine = s.resetLine := rfl
@[simp] theorem State.call_oracle (s : State) (r : Routine) (l : Locals) : (s.call r l).oracle = s.oracle := rfl
@[simp] theorem State.call_trace (s : State) (r : Routine) (l : Locals) : (s.call r l).trace = s.trace := rfl
@[simp] theorem State.call_calls (s : State) (r : Routine) (l : Locals) : (s.call r l).calls = s.calls := rfl
@[simp] theorem State.call_draws (s : State) (r : Routine) (l : Locals) : (s.call r l).draws = s.draws := rfl

/-! ## Actions -/

@[simp] theorem delay_eq_log (t : Nat) (s : State) : delay t s = s.log (.delay t) := rfl
@[simp] theorem emit_eq_log (ev : Event) (s : State) : emit ev s = s.log (.emit ev) := rfl
@[simp] theorem memRead_eq_log (i n : Nat) (s : State) : memRead i n s = s.log (.memRead i n) := rfl
@[simp] theorem memWrite_eq_log (i : Nat) (v : List Byte) (s : State) :
    memWrite i v s = (s.withRbuf (s.RBUF.writeBytes i v)).log (.memWrite i v) := rfl

end Sys2Proof.Machine
end

