-- ==== Sys2Proof/Laws/Ops.lean ====
section
/-! SUPPORT. One lemma for each shared operation: everything it can do. The provers cite these and do not unfold the operations. -/

namespace Sys2Proof.Machine

/-! ## The oracle -/

/-- A transport write: either the call does not return and nothing happens, or it returns some `cnt` and `ok`. -/
theorem xferWrite_cases (bytes : List Byte) (csA csR : Bool) (s : State) :
    xferWrite bytes csA csR s = s ∨
    ∃ cnt ok data o, s.oracle.answer s.cfg s.calls (.write bytes csA csR) = (.returned cnt ok data, o) ∧
      xferWrite bytes csA csR s =
        ((s.withAnswered o (s.chipSelect.after csA csR ok)).log (.write bytes csA csR cnt ok)).advanceWith
          fun l => { l with cnt := cnt, ok := ok } := by
  unfold xferWrite
  rcases h : s.oracle.answer s.cfg s.calls (.write bytes csA csR) with ⟨a, o⟩
  cases a with
  | neverReturns => exact .inl rfl
  | returned cnt ok data => exact .inr ⟨cnt, ok, data, o, rfl, rfl⟩

/-- A transport read, likewise. -/
theorem xferRead_cases (n : Nat) (csA csR : Bool) (s : State) :
    xferRead n csA csR s = s ∨
    ∃ cnt ok data o, s.oracle.answer s.cfg s.calls (.read n csA csR) = (.returned cnt ok data, o) ∧
      xferRead n csA csR s =
        ((s.withAnswered o (s.chipSelect.afterRead n csA csR ok)).log
            (.read n csA csR (readData s.calls n data) cnt ok)).advanceWith
          fun l => { l with d := readData s.calls n data, cnt := cnt, ok := ok } := by
  unfold xferRead
  rcases h : s.oracle.answer s.cfg s.calls (.read n csA csR) with ⟨a, o⟩
  cases a with
  | neverReturns => exact .inl rfl
  | returned cnt ok data => exact .inr ⟨cnt, ok, data, o, rfl, rfl⟩

/-- A listed answer to a write. -/
theorem xferWrite_returned {s : State} {cnt : Nat} {ok : Bool} {data : List Byte} {rest : List Answer}
    (h : s.oracle = .script (.returned cnt ok data :: rest)) (bytes : List Byte) (csA csR : Bool) :
    xferWrite bytes csA csR s =
      ((s.withAnswered (.script rest) (s.chipSelect.after csA csR ok)).log (.write bytes csA csR cnt ok)).advanceWith
        fun l => { l with cnt := cnt, ok := ok } := by
  simp [xferWrite, h, Oracle.answer]

/-- A listed answer to a read. -/
theorem xferRead_returned {s : State} {cnt : Nat} {ok : Bool} {data : List Byte} {rest : List Answer}
    (h : s.oracle = .script (.returned cnt ok data :: rest)) (n : Nat) (csA csR : Bool) :
    xferRead n csA csR s =
      ((s.withAnswered (.script rest) (s.chipSelect.afterRead n csA csR ok)).log
          (.read n csA csR (readData s.calls n data) cnt ok)).advanceWith
        fun l => { l with d := readData s.calls n data, cnt := cnt, ok := ok } := by
  simp [xferRead, h, Oracle.answer]

/-- N14: a read of no byte leaves the line unknown. -/
@[simp] theorem Line.afterRead_zero (l : Line) (csA csR ok : Bool) : l.afterRead 0 csA csR ok = .unknown := rfl

/-- R55: a read of at least one byte leaves it as any call does. -/
theorem Line.afterRead_pos {n : Nat} (h : n ≠ 0) (l : Line) (csA csR ok : Bool) :
    l.afterRead n csA csR ok = l.after csA csR ok := if_neg h

@[simp] theorem readData_length (call n : Nat) (data : List Byte) : (readData call n data).length = n := by
  simp [readData]

/-- R54: data of the length asked for is delivered as it is. -/
theorem readData_of_length (call : Nat) (data : List Byte) : readData call data.length data = data := by
  apply List.ext_getElem
  · simp
  · intro k h1 h2
    simp [readData, h2]

/-- R54: every byte the answer supplies is delivered. -/
theorem readData_getElem? {call n k : Nat} {data : List Byte} {b : Byte} (hk : k < n) (hb : data[k]? = some b) :
    (readData call n data)[k]? = some b := by
  simp [readData, hk, hb]

/-! ## Completion -/

@[simp] theorem finish_cfg (r : Result) (v : Option Byte) (f : Option Bool) (s : State) : (finish r v f s).cfg = s.cfg := rfl
@[simp] theorem finish_x (r : Result) (v : Option Byte) (f : Option Bool) (s : State) : (finish r v f s).x = s.x := rfl
@[simp] theorem finish_pc (r : Result) (v : Option Byte) (f : Option Bool) (s : State) : (finish r v f s).pc = [] := rfl
@[simp] theorem finish_RESULT (r : Result) (v : Option Byte) (f : Option Bool) (s : State) :
    (finish r v f s).RESULT = r.code := rfl
@[simp] theorem finish_VALUE (r : Result) (v : Option Byte) (f : Option Bool) (s : State) :
    (finish r v f s).VALUE = v.getD (Config.freeValue s.draws) := rfl
@[simp] theorem finish_FLAG (r : Result) (v : Option Byte) (f : Option Bool) (s : State) :
    (finish r v f s).FLAG = f.getD (Config.freeFlag s.draws) := rfl
@[simp] theorem finish_WBUF (r : Result) (v : Option Byte) (f : Option Bool) (s : State) : (finish r v f s).WBUF = s.WBUF := rfl
@[simp] theorem finish_RBUF (r : Result) (v : Option Byte) (f : Option Bool) (s : State) : (finish r v f s).RBUF = s.RBUF := rfl
@[simp] theorem finish_chipSelect (r : Result) (v : Option Byte) (f : Option Bool) (s : State) :
    (finish r v f s).chipSelect = s.chipSelect := rfl
@[simp] theorem finish_port (r : Result) (v : Option Byte) (f : Option Bool) (s : State) : (finish r v f s).port = s.port := rfl
@[simp] theorem finish_resetLine (r : Result) (v : Option Byte) (f : Option Bool) (s : State) :
    (finish r v f s).resetLine = s.resetLine := rfl
@[simp] theorem finish_oracle (r : Result) (v : Option Byte) (f : Option Bool) (s : State) :
    (finish r v f s).oracle = s.oracle := rfl
@[simp] theorem finish_trace (r : Result) (v : Option Byte) (f : Option Bool) (s : State) :
    (finish r v f s).trace = s.trace ++ [.done r v f] := rfl
@[simp] theorem finish_calls (r : Result) (v : Option Byte) (f : Option Bool) (s : State) :
    (finish r v f s).calls = s.calls := rfl
@[simp] theorem finish_draws (r : Result) (v : Option Byte) (f : Option Bool) (s : State) :
    (finish r v f s).draws = s.draws + 1 := rfl

/-- R198, R199: raising an error is a completion that also leaves `RBUF` as `rbufAfterError` says. -/
theorem raise_eq (e : Error) (s : State) :
    raise e s = (finish (.fail e) none (some false) s).withRbuf (rbufAfterError e s) := rfl

@[simp] theorem raise_cfg (e : Error) (s : State) : (raise e s).cfg = s.cfg := rfl
@[simp] theorem raise_x (e : Error) (s : State) : (raise e s).x = s.x := rfl
@[simp] theorem raise_pc (e : Error) (s : State) : (raise e s).pc = [] := rfl
@[simp] theorem raise_RESULT (e : Error) (s : State) : (raise e s).RESULT = e.code := rfl
@[simp] theorem raise_FLAG (e : Error) (s : State) : (raise e s).FLAG = false := rfl
@[simp] theorem raise_WBUF (e : Error) (s : State) : (raise e s).WBUF = s.WBUF := rfl
@[simp] theorem raise_RBUF (e : Error) (s : State) : (raise e s).RBUF = rbufAfterError e s := rfl
@[simp] theorem raise_chipSelect (e : Error) (s : State) : (raise e s).chipSelect = s.chipSelect := rfl
@[simp] theorem raise_port (e : Error) (s : State) : (raise e s).port = s.port := rfl
@[simp] theorem raise_resetLine (e : Error) (s : State) : (raise e s).resetLine = s.resetLine := rfl
@[simp] theorem raise_oracle (e : Error) (s : State) : (raise e s).oracle = s.oracle := rfl
@[simp] theorem raise_trace (e : Error) (s : State) : (raise e s).trace = s.trace ++ [.done (.fail e) none (some false)] := rfl
@[simp] theorem raise_calls (e : Error) (s : State) : (raise e s).calls = s.calls := rfl
@[simp] theorem raise_draws (e : Error) (s : State) : (raise e s).draws = s.draws + 1 := rfl

/-- The drawn range leaves a canonical memory. -/
theorem drawOperation_wf {s : State} (h : s.RBUF.wf) : (drawOperation s).wf := by
  unfold drawOperation
  split
  · exact h
  · exact drawRbuf_wf h _ _

/-- R59: beyond the range the running operation stores into, nothing is drawn. -/
theorem drawOperation_outside {s : State} (h : s.RBUF.wf) {g : Activation} (hg : s.operation = some g) {k : Nat}
    (hk : g.rbufRange ≤ k) : (drawOperation s).read k = s.RBUF.read k := by
  rw [drawOperation, hg]
  exact drawRbuf_outside h _ hk

/-- R233: in IDLE nothing is drawn. -/
theorem drawOperation_idle {s : State} (h : s.pc = []) : drawOperation s = s.RBUF := by
  simp [drawOperation, State.operation, h]

/-- `RBUF` after an error is a canonical memory. -/
theorem rbufAfterError_wf {s : State} (h : s.RBUF.wf) (e : Error) : (rbufAfterError e s).wf := by
  unfold rbufAfterError
  split_ifs
  · exact h
  · exact drawOperation_wf h

/-- R59: after any error, beyond the range the operation stores into, `RBUF` reads as before. -/
theorem rbufAfterError_outside {s : State} (h : s.RBUF.wf) {g : Activation} (hg : s.operation = some g) (e : Error)
    {k : Nat} (hk : g.rbufRange ≤ k) : (rbufAfterError e s).read k = s.RBUF.read k := by
  unfold rbufAfterError
  split_ifs
  · rfl
  · exact drawOperation_outside h hg hk

/-- `RBUF` is untouched by an error raised before any buffer is. -/
theorem rbufAfterError_before {e : Error} (h : e.beforeBuffers = true) (s : State) : rbufAfterError e s = s.RBUF := by
  simp [rbufAfterError, h]

/-- R30: returning to a caller, or completing at top level. -/
theorem returnWith_nested {s : State} {f g : Activation} {r : List Activation} (h : s.pc = f :: g :: r) (v : Returned)
    (value : Option Byte) : returnWith v value s = s.withPc (g.resume v :: r) := by
  simp [returnWith, h]

/-- R30: `return` at top level is `Done(Ok)`. -/
theorem returnWith_top {s : State} {f : Activation} (h : s.pc = [f]) (v : Returned) (value : Option Byte) :
    returnWith v value s = finish .ok value none s := by
  simp [returnWith, h]

/-! ## Checks -/

/-- R191. -/
theorem checkOk_cases (l : Locals) (s : State) :
    (l.ok = true ∧ checkOk l s = .next s.advance) ∨ (l.ok = false ∧ checkOk l s = .next (raise .transportError s)) := by
  unfold checkOk; cases l.ok <;> simp

/-- R130. -/
theorem checkNotBusy_cases (l : Locals) (s : State) :
    (busy l.s = false ∧ checkNotBusy l s = .next s.advance) ∨
      (busy l.s = true ∧ checkNotBusy l s = .next (raise .deviceBusy s)) := by
  unfold checkNotBusy; cases busy l.s <;> simp

/-- R131. -/
theorem checkArmed_cases (l : Locals) (s : State) :
    (confirmFails s.cfg l.s = false ∧ checkArmed l s = .next s.advance) ∨
      (confirmFails s.cfg l.s = true ∧ checkArmed l s = .next (raise .writeEnableNotSet s)) := by
  unfold checkArmed; cases confirmFails s.cfg l.s <;> simp

/-- R194. -/
theorem checkCount_cases (n : Nat) (l : Locals) (s : State) :
    (l.cnt = n ∧ checkCount n l s = .next s.advance) ∨
      (l.cnt ≠ n ∧ checkCount n l s = .next (raise .lengthMismatch s)) := by
  unfold checkCount; by_cases h : l.cnt = n <;> simp [h]

end Sys2Proof.Machine
end

