-- ==== Sys2Proof/Laws/Step.lean ====
section
/-! SUPPORT. What a step can do: reset, an idle step, an acceptance, or the move of the running activation; and how runs are composed. -/

namespace Sys2Proof.Machine

/-! ## The step by its cases -/

/-- A step is an asserted reset or a sequencer step on a state whose reset line has moved on. -/
theorem step_cases (s : State) :
    (∃ l, s.resetLine = true :: l ∧ step s = .next (assertReset (s.withResetLine l))) ∨
      ∃ l, s.resetLine.head? ≠ some true ∧ step s = sequencerStep (s.withResetLine l) := by
  rcases h : s.resetLine with _ | ⟨b, l⟩
  · refine .inr ⟨[], by simp, ?_⟩
    rw [show s.withResetLine [] = s by rw [← h]; rfl]
    simp [step, h]
  · cases b
    · exact .inr ⟨l, by simp, by simp [step, h]⟩
    · exact .inl ⟨l, rfl, by simp [step, h]⟩

/-- The step of a running activation, the reset input being quiet. -/
theorem step_running {s : State} {f : Activation} {r : List Activation} (hp : s.pc = f :: r) (hr : s.resetLine = []) :
    step s = runStep f s := by
  simp [step, hr, sequencerStep, hp]

/-- A sequencer step of a running activation. -/
theorem sequencerStep_running {s : State} {f : Activation} {r : List Activation} (hp : s.pc = f :: r) :
    sequencerStep s = runStep f s := by
  simp [sequencerStep, hp]

/-- A running activation that sends a frame: `exec` of the frame, which is one transport write. -/
theorem runStep_sends {s : State} {f : Activation} {bytes : List Byte} (ho : f.outgoing = some bytes) :
    (∃ i, decodeFrame bytes = .ok i ∧ runStep f s = exec i s) ∨
      ((∃ e, decodeFrame bytes = .error e) ∧ runStep f s = .fault (.notAFrame bytes)) := by
  rcases h : decodeFrame bytes with e | i
  · exact .inr ⟨⟨e, rfl⟩, by simp [runStep, ho, h]⟩
  · exact .inl ⟨i, rfl, by simp [runStep, ho, h]⟩

/-- A running activation that sends no frame. -/
theorem runStep_silent {s : State} {f : Activation} (ho : f.outgoing = none) : runStep f s = routineStep f s := by
  unfold runStep; rw [ho]

/-! ## Reset (R230) -/

@[simp] theorem assertReset_cfg (s : State) : (assertReset s).cfg = s.cfg := rfl
@[simp] theorem assertReset_pc (s : State) : (assertReset s).pc = [] := rfl
@[simp] theorem assertReset_WBUF (s : State) : (assertReset s).WBUF = s.WBUF := rfl
@[simp] theorem assertReset_RBUF (s : State) : (assertReset s).RBUF = drawOperation s := rfl
@[simp] theorem assertReset_port (s : State) : (assertReset s).port = s.port := rfl
@[simp] theorem assertReset_resetLine (s : State) : (assertReset s).resetLine = s.resetLine := rfl
@[simp] theorem assertReset_trace (s : State) : (assertReset s).trace = s.trace := rfl
@[simp] theorem assertReset_calls (s : State) : (assertReset s).calls = s.calls := rfl
@[simp] theorem assertReset_draws (s : State) : (assertReset s).draws = s.draws + 1 := rfl

/-- R233: in IDLE the transport is untouched. -/
theorem assertReset_oracle_idle {s : State} (h : s.pc = []) : (assertReset s).oracle = s.oracle := by
  simp [assertReset, h]

/-- R232: during an operation nothing is known of the device from then on. -/
theorem assertReset_oracle_running {s : State} {f : Activation} {r : List Activation} (h : s.pc = f :: r) :
    (assertReset s).oracle = s.oracle.forget f.makesCall := by
  simp [assertReset, h]

/-- R252: a call that does not return is dropped by the reset that ends it. -/
theorem Oracle.forget_hung (answers : List Answer) :
    (Oracle.script (.neverReturns :: answers)).forget true = .script answers := rfl

/-- The answers that return are still to come. -/
theorem Oracle.forget_returned (b : Bool) (cnt : Nat) (ok : Bool) (d : List Byte) (answers : List Answer) :
    (Oracle.script (.returned cnt ok d :: answers)).forget b = .script (.returned cnt ok d :: answers) := rfl

/-! ## Runs -/

/-- Some number of steps of a running operation leads from `s` to `t`. -/
def Runs (s t : State) : Prop := ∃ k, runToIdle k s = .next t

theorem Runs.refl (s : State) : Runs s s := ⟨0, rfl⟩

/-- Runs in a row. -/
theorem runToIdle_add {j k : Nat} {s u t : State} (h1 : runToIdle j s = .next u) (h2 : runToIdle k u = .next t) :
    runToIdle (j + k) s = .next t := by
  induction j generalizing s with
  | zero =>
    cases h1
    simpa using h2
  | succ j ih =>
    rw [Nat.succ_add]
    rw [runToIdle] at h1 ⊢
    rcases hp : s.pc with _ | ⟨f, r⟩
    · rw [hp] at h1
      cases h1
      cases k with
      | zero => exact h2
      | succ k => rw [runToIdle, hp] at h2; exact h2
    · rw [hp] at h1
      simp only at h1 ⊢
      rcases hs : step s with v | e | e
      · rw [hs] at h1; exact ih h1
      · rw [hs] at h1; cases h1
      · rw [hs] at h1; cases h1

theorem Runs.trans {s u t : State} : Runs s u → Runs u t → Runs s t
  | ⟨j, h1⟩, ⟨k, h2⟩ => ⟨j + k, runToIdle_add h1 h2⟩

/-- One step of a running activation, then the rest. -/
theorem runToIdle_step {s u : State} {f : Activation} {r : List Activation} (hp : s.pc = f :: r)
    (hr : s.resetLine = []) (h : runStep f s = .next u) (k : Nat) : runToIdle (k + 1) s = runToIdle k u := by
  rw [runToIdle, hp]
  simp only [step_running hp hr, h]

theorem Runs.step {s u t : State} {f : Activation} {r : List Activation} (hp : s.pc = f :: r)
    (hr : s.resetLine = []) (h : runStep f s = .next u) : Runs u t → Runs s t
  | ⟨k, hk⟩ => ⟨k + 1, (runToIdle_step hp hr h k).trans hk⟩

/-- An operation completes where its acceptance runs to an idle state. -/
theorem Completes.of_runs {i : Instr} {s a t : State} (h : exec i s = .next a) (ha : a.pc ≠ []) (hr : Runs a t)
    (ht : t.pc = []) : Completes i s t := by
  obtain ⟨k, hk⟩ := hr
  exact ⟨a, k, h, ha, hk, ht⟩

end Sys2Proof.Machine
end

