-- ==== Sys2Proof/Laws/Moves.lean ====
section
/-! SUPPORT. Everything a step can do, said once: `Moves` for the running activation, `Steps` for the machine. A proof about every step
is a case analysis over these, with no unfolding of a routine. -/

namespace Sys2Proof.Machine

/-! ## Frames -/

/-- A frame's meaning is one transport write of its bytes, with the chip-select flags of its shape. -/
theorem exec_frame {i : Instr} (hi : i.isFrame = true) (s : State) :
    ∃ bytes, encode i = .frame bytes ∧ exec i s = .next (xferWrite bytes true (shapeA i) s) := by
  cases i <;> simp [Instr.isFrame] at hi <;> exact ⟨_, rfl, rfl⟩

/-! ## The running activation -/

/-- The numbered steps that only check: they raise, or go on with nothing changed. -/
def checkSteps : List (Routine × Nat) :=
  [(.readStatus, 2), (.readStatus, 4), (.writeEnable, 2), (.writeDisable, 2), (.readId, 2), (.readId, 4),
    (.bulkErase, 2), (.bulkErase, 5), (.bulkErase, 7), (.writePage, 0), (.writePage, 2), (.writePage, 5),
    (.writePage, 9), (.writePage, 10), (.readPage, 0), (.readPage, 2), (.readPage, 4), (.readPage, 6),
    (.readPage, 7), (.writeAll, 1), (.readAll, 1)]

/-- The activation `f` one step on, with the local values `l`. -/
def Activation.next (f : Activation) (l : Locals) : Activation := { f with step := f.step + 1, loc := l }

/-- What the step of the running activation `f`, on top of `r`, can make of `s`. -/
inductive Moves (f : Activation) (r : List Activation) (s : State) : State → Prop
  /-- A transport call that does not return. -/
  | waits : Moves f r s s
  /-- A frame is sent: `exec` of it. -/
  | sends (bytes : List Byte) (i : Instr) (t : State) : f.outgoing = some bytes → decodeFrame bytes = .ok i →
      exec i s = .next t → Moves f r s t
  /-- A read phase returns. -/
  | receives (n cnt : Nat) (ok : Bool) (o : Oracle) (data : List Byte) :
      f.routine = .readStatus ∧ f.step = 3 ∧ n = 1 ∨ f.routine = .readId ∧ f.step = 3 ∧ n = Cfg.ID_LEN ∨
        f.routine = .readPage ∧ f.step = 5 ∧ n = f.loc.n →
      s.oracle.answer s.cfg s.calls (.read n false true) = (.returned cnt ok data, o) →
      Moves f r s (((s.withAnswered o (s.chipSelect.afterRead n false true ok)).log
        (.read n false true (readData s.calls n data) cnt ok)).withPc
          (f.next { f.loc with d := readData s.calls n data, cnt := cnt, ok := ok } :: r))
  /-- An error is raised. -/
  | fails (e : Error) : errorAt s.cfg f = some e → Moves f r s (raise e s)
  /-- A check passes. -/
  | passes : errorAt s.cfg f = none → (f.routine, f.step) ∈ checkSteps → Moves f r s (s.withPc (f.next f.loc :: r))
  /-- `WRITE_PAGE` step 7 builds its frame. -/
  | builds : f.routine = .writePage → f.step = 7 →
      Moves f r s (s.withPc (f.next { f.loc with frame := programFrame s.cfg f.loc.a f.loc.chunk } :: r))
  /-- `READ_PAGE` step 8 un-swaps what it has received. -/
  | swaps : f.routine = .readPage → f.step = 8 →
      Moves f r s (s.withPc (f.next { f.loc with out := f.loc.d.map (swz s.cfg) } :: r))
  /-- Step 4 of a chunk loop cuts the next chunk. -/
  | cuts : f.routine = .writeAll ∨ f.routine = .readAll → f.step = 4 →
      Moves f r s (s.withPc (f.next { f.loc with n := chunkLength s.cfg s.x.REMAIN } :: r))
  /-- The percentage is calculated. -/
  | measures : f.routine = .writeAll ∧ f.step = 7 ∨ f.routine = .readAll ∧ f.step = 8 →
      Moves f r s (s.withPc (f.next { f.loc with p := percent s.x.DONE.toNat s.x.TOTAL.toNat } :: r))
  /-- A poll shows the device ready. -/
  | ready : f.routine = .bulkErase ∧ f.step = 11 ∨ f.routine = .writePage ∧ f.step = 13 → busy f.loc.s = false →
      Moves f r s (s.withPc (f.next f.loc :: r))
  /-- Something remains to a chunk loop. -/
  | loops : f.routine = .writeAll ∨ f.routine = .readAll → f.step = 3 → s.x.REMAIN ≠ 0 →
      Moves f r s (s.withPc (f.next f.loc :: r))
  /-- The percentage has not changed. -/
  | silent : f.routine = .writeAll ∧ f.step = 8 ∨ f.routine = .readAll ∧ f.step = 9 → f.loc.p = s.x.LASTPCT.toNat →
      Moves f r s (s.withPc (f.next f.loc :: r))
  /-- `goto k`. -/
  | jumps (k : Nat) : f.routine = .bulkErase ∧ f.step = 11 ∧ k = 8 ∧ busy f.loc.s = true ∨
        f.routine = .writePage ∧ f.step = 13 ∧ k = 12 ∧ busy f.loc.s = true ∨
        f.routine = .writeAll ∧ f.step = 9 ∧ k = 3 ∨ f.routine = .readAll ∧ f.step = 10 ∧ k = 3 →
      Moves f r s (s.withPc ({ f with step := k } :: r))
  /-- A delay. -/
  | delays (t : Nat) : f.routine = .bulkErase ∧ f.step = 8 ∧ t = s.cfg.T_ERASE_POLL ∨
        f.routine = .writePage ∧ f.step = 11 ∧ t = s.cfg.T_PAGE_SETTLE →
      Moves f r s ((s.log (.delay t)).withPc (f.next f.loc :: r))
  /-- A `Spin` event. -/
  | spins : f.routine = .bulkErase → f.step = 10 → Moves f r s ((s.log (.emit .spin)).withPc (f.next f.loc :: r))
  /-- A `Progress` event. -/
  | reports : f.routine = .writeAll ∧ f.step = 8 ∨ f.routine = .readAll ∧ f.step = 9 → f.loc.p ≠ s.x.LASTPCT.toNat →
      Moves f r s (((s.log (.emit (.progress (BitVec.ofNat 7 f.loc.p)))).withX
        { s.x with LASTPCT := BitVec.ofNat 7 f.loc.p }).withPc (f.next f.loc :: r))
  /-- `WRITE_PAGE` step 6 reads its chunk. -/
  | reads : f.routine = .writePage → f.step = 6 →
      Moves f r s ((s.log (.memRead f.loc.i f.loc.n)).withPc
        (f.next { f.loc with chunk := wbufBytes f.loc.i f.loc.n s } :: r))
  /-- Bytes are stored in `RBUF`. -/
  | stores (i : Nat) (v : List Byte) : f.routine = .readId ∧ f.step = 5 ∧ i = 0 ∧ v = f.loc.d ∨
        f.routine = .readAll ∧ f.step = 6 ∧ f.loc.sink = .toRbuf ∧ i = s.x.DONE.toNat ∧ v = f.loc.out →
      Moves f r s ((memWrite i v s).withPc (f.next f.loc :: r))
  /-- `READ_STATUS` step 5 writes `STATUS`. -/
  | latches : f.routine = .readStatus → f.step = 5 →
      Moves f r s ((s.withX { s.x with STATUS := firstByte f.loc s }).withPc (f.next f.loc :: r))
  /-- Step 2 of a chunk loop. -/
  | starts : f.routine = .writeAll ∨ f.routine = .readAll → f.step = 2 →
      Moves f r s ((s.withX (startRegs f.loc.len s.x)).withPc (f.next f.loc :: r))
  /-- A chunk is done. -/
  | advances : f.routine = .writeAll ∧ f.step = 6 ∨ f.routine = .readAll ∧ f.step = 7 →
      Moves f r s ((s.withX (nextChunkRegs f.loc.n s.x)).withPc (f.next f.loc :: r))
  /-- Sink `TO_FF`. -/
  | toFF : f.routine = .readAll → f.step = 6 → f.loc.sink = .toFF →
      Moves f r s ((s.withX { s.x with ALLFF := s.x.ALLFF && allErased f.loc.out }).withPc (f.next f.loc :: r))
  /-- Sink `TO_EQ`. -/
  | toEQ : f.routine = .readAll → f.step = 6 → f.loc.sink = .toEQ →
      Moves f r s (((memRead s.x.DONE.toNat f.loc.n s).withX
        { s.x with EQ := s.x.EQ && decide (f.loc.out = wbufBytes s.x.DONE.toNat f.loc.n s) }).withPc (f.next f.loc :: r))
  /-- `IS_EMPTY` step 1. -/
  | blank : f.routine = .isEmpty → f.step = 1 →
      Moves f r s ((s.withX { s.x with ALLFF := true }).withPc (f.next f.loc :: r))
  /-- `PROGRAM_AND_VERIFY` step 3. -/
  | equal : f.routine = .programAndVerify → f.step = 3 →
      Moves f r s ((s.withX { s.x with EQ := true }).withPc (f.next f.loc :: r))
  /-- A routine is called, with its parameters. -/
  | calls (c : Routine) (l : Locals) : callee f.routine f.step = some c →
      (c, l) ∈ ([(.readStatus, {}), (.writeEnable, {}), (.bulkErase, {}),
        (.writePage, writePageArgs s.x.ADDR s.x.DONE.toNat f.loc.n), (.readPage, readPageArgs s.x.ADDR f.loc.n),
        (.readAll, if f.routine = .isEmpty then readAllArgs s.cfg.CAPACITY .toFF else readAllArgs f.loc.len .toEQ),
        (.writeAll, { len := f.loc.len })] : List (Routine × Locals)) →
      Moves f r s (s.withPc ({ routine := c, step := 1, loc := l } :: f :: r))
  /-- A routine returns to its caller. -/
  | returns (v : Returned) (g : Activation) (r' : List Activation) : r = g :: r' →
      (f.routine, f.step, v) ∈ ([(.readStatus, 6, .byte (firstByte f.loc s)), (.writeEnable, 3, .void),
        (.writeDisable, 3, .void), (.readId, 6, .bytes f.loc.d), (.bulkErase, 12, .void), (.writePage, 14, .void),
        (.readPage, 9, .bytes f.loc.out), (.reverseBits, 1, .byte (rev8 f.loc.b))] : List (Routine × Nat × Returned)) ∨
        ((f.routine = .writeAll ∨ f.routine = .readAll) ∧ f.step = 3 ∧ s.x.REMAIN = 0 ∧ v = .void) →
      Moves f r s (s.withPc (g.resume v :: r'))
  /-- `Done(Ok)` at top level. -/
  | ends (v : Option Byte) : r = [] →
      (f.routine, f.step, v) ∈ ([(.readStatus, 6, some (firstByte f.loc s)), (.writeEnable, 3, none),
        (.writeDisable, 3, none), (.readId, 6, none), (.bulkErase, 12, none), (.writePage, 14, none),
        (.reverseBits, 1, some (rev8 f.loc.b)), (.writeAll, 3, none), (.readAll, 3, none)] :
          List (Routine × Nat × Option Byte)) →
      Moves f r s (finish .ok v none s)
  /-- `READ_PAGE` at top level stores its bytes and is done. -/
  | endsPage : r = [] → f.routine = .readPage → f.step = 9 →
      Moves f r s (finish .ok none none (memWrite 0 f.loc.out s))
  /-- `IS_EMPTY` and `PROGRAM_AND_VERIFY` end with their flag. -/
  | endsWithFlag (b : Bool) : f.routine = .isEmpty ∧ f.step = 3 ∧ b = s.x.ALLFF ∨
        f.routine = .programAndVerify ∧ f.step = 5 ∧ b = s.x.EQ →
      Moves f r s (finish .ok none (some b) s)

/-! ## Control updates on a stack whose top is known -/

theorem advance_running {s : State} {f : Activation} {r : List Activation} (hp : s.pc = f :: r) :
    s.advance = s.withPc (f.next f.loc :: r) := by
  simp [State.advance, State.advanceWith, State.mapTop, hp, Activation.next]

theorem advanceWith_running {s : State} {f : Activation} {r : List Activation} (hp : s.pc = f :: r) (g : Locals → Locals) :
    s.advanceWith g = s.withPc (f.next (g f.loc) :: r) := by
  simp [State.advanceWith, State.mapTop, hp, Activation.next]

theorem goto_running {s : State} {f : Activation} {r : List Activation} (hp : s.pc = f :: r) (k : Nat) :
    s.goto k = s.withPc ({ f with step := k } :: r) := by
  simp [State.goto, State.mapTop, hp]

/-- A step that checks. -/
theorem moves_of_check {s t : State} {f : Activation} {r : List Activation} (hp : s.pc = f :: r) (b : Bool) (e : Error)
    (h : (if b then Host.Outcome.next (raise e s) else .next s.advance : Outcome) = .next t)
    (h1 : b = true → errorAt s.cfg f = some e) (h2 : b = false → errorAt s.cfg f = none)
    (h3 : (f.routine, f.step) ∈ checkSteps) : Moves f r s t := by
  cases b
  · cases h; rw [advance_running hp]; exact .passes (h2 rfl) h3
  · cases h; exact .fails e (h1 rfl)

/-! ## Each routine -/

theorem moves_readStatus {s t : State} {k : Nat} {l : Locals} {r : List Activation} (hp : s.pc = ⟨.readStatus, k, l⟩ :: r)
    (h : stepReadStatus k l s = .next t) : Moves ⟨.readStatus, k, l⟩ r s t := by
  unfold stepReadStatus at h
  split at h
  · refine moves_of_check hp (!l.ok) .transportError ?_ (by simp [errorAt]) (by simp [errorAt]) (by simp [checkSteps])
    rcases checkOk_cases l s with ⟨h1, h2⟩ | ⟨h1, h2⟩ <;> simp_all
  · rcases xferRead_cases 1 false true s with hh | ⟨cnt, ok, data, o, ha, hh⟩ <;> simp only [readPhase, hh] at h <;> cases h
    · exact .waits
    · have := Moves.receives (f := ⟨.readStatus, 3, l⟩) (r := r) 1 cnt ok o data (by simp) ha
      simpa [Activation.next, State.advanceWith, State.mapTop, hp] using this
  · refine moves_of_check hp (!l.ok) .transportError ?_ (by simp [errorAt]) (by simp [errorAt]) (by simp [checkSteps])
    rcases checkOk_cases l s with ⟨h1, h2⟩ | ⟨h1, h2⟩ <;> simp_all
  · cases h; rw [advance_running (f := ⟨.readStatus, 5, l⟩) (r := r) (by exact hp)]; exact .latches rfl rfl
  · cases h
    cases r with
    | nil => rw [returnWith_top hp]; exact .ends _ rfl (by simp)
    | cons g r => rw [returnWith_nested hp]; exact .returns _ g r rfl (by simp)
  · cases h

theorem moves_writeEnable {s t : State} {k : Nat} {l : Locals} {r : List Activation} (hp : s.pc = ⟨.writeEnable, k, l⟩ :: r)
    (h : stepWriteEnable k l s = .next t) : Moves ⟨.writeEnable, k, l⟩ r s t := by
  unfold stepWriteEnable at h
  split at h
  · refine moves_of_check hp (!l.ok) .transportError ?_ (by simp [errorAt]) (by simp [errorAt]) (by simp [checkSteps])
    rcases checkOk_cases l s with ⟨h1, h2⟩ | ⟨h1, h2⟩ <;> simp_all
  · cases h
    cases r with
    | nil => rw [returnWith_top hp]; exact .ends _ rfl (by simp)
    | cons g r => rw [returnWith_nested hp]; exact .returns _ g r rfl (by simp)
  · cases h

theorem moves_writeDisable {s t : State} {k : Nat} {l : Locals} {r : List Activation} (hp : s.pc = ⟨.writeDisable, k, l⟩ :: r)
    (h : stepWriteDisable k l s = .next t) : Moves ⟨.writeDisable, k, l⟩ r s t := by
  unfold stepWriteDisable at h
  split at h
  · refine moves_of_check hp (!l.ok) .transportError ?_ (by simp [errorAt]) (by simp [errorAt]) (by simp [checkSteps])
    rcases checkOk_cases l s with ⟨h1, h2⟩ | ⟨h1, h2⟩ <;> simp_all
  · cases h
    cases r with
    | nil => rw [returnWith_top hp]; exact .ends _ rfl (by simp)
    | cons g r => rw [returnWith_nested hp]; exact .returns _ g r rfl (by simp)
  · cases h

theorem moves_readId {s t : State} {k : Nat} {l : Locals} {r : List Activation} (hp : s.pc = ⟨.readId, k, l⟩ :: r)
    (h : stepReadId k l s = .next t) : Moves ⟨.readId, k, l⟩ r s t := by
  unfold stepReadId at h
  split at h
  · refine moves_of_check hp (!l.ok) .transportError ?_ (by simp [errorAt]) (by simp [errorAt]) (by simp [checkSteps])
    rcases checkOk_cases l s with ⟨h1, h2⟩ | ⟨h1, h2⟩ <;> simp_all
  · rcases xferRead_cases 3 false true s with hh | ⟨cnt, ok, data, o, ha, hh⟩ <;> simp only [readPhase, Cfg.ID_LEN, hh] at h <;> cases h
    · exact .waits
    · have := Moves.receives (f := ⟨.readId, 3, l⟩) (r := r) 3 cnt ok o data (by simp [Cfg.ID_LEN]) ha
      simpa [Activation.next, State.advanceWith, State.mapTop, hp] using this
  · refine moves_of_check hp (!l.ok) .transportError ?_ (by simp [errorAt]) (by simp [errorAt]) (by simp [checkSteps])
    rcases checkOk_cases l s with ⟨h1, h2⟩ | ⟨h1, h2⟩ <;> simp_all
  · cases h; rw [advance_running (f := ⟨.readId, 5, l⟩) (r := r) (by exact hp)]; exact .stores 0 l.d (by simp)
  · cases h
    cases r with
    | nil => rw [returnWith_top hp]; exact .ends _ rfl (by simp)
    | cons g r => rw [returnWith_nested hp]; exact .returns _ g r rfl (by simp)
  · cases h

theorem moves_bulkErase {s t : State} {k : Nat} {l : Locals} {r : List Activation} (hp : s.pc = ⟨.bulkErase, k, l⟩ :: r)
    (h : stepBulkErase k l s = .next t) : Moves ⟨.bulkErase, k, l⟩ r s t := by
  unfold stepBulkErase at h
  split at h
  · cases h; rw [State.call, hp]; exact .calls _ _ rfl (by simp)
  · refine moves_of_check hp (busy l.s) .deviceBusy ?_ (by simp +contextual [errorAt]) (by simp +contextual [errorAt]) (by simp [checkSteps])
    rcases checkNotBusy_cases l s with ⟨h1, h2⟩ | ⟨h1, h2⟩ <;> simp_all
  · cases h; rw [State.call, hp]; exact .calls _ _ rfl (by simp)
  · cases h; rw [State.call, hp]; exact .calls _ _ rfl (by simp)
  · refine moves_of_check hp (confirmFails s.cfg l.s) .writeEnableNotSet ?_ (by simp +contextual [errorAt]) (by simp +contextual [errorAt]) (by simp [checkSteps])
    rcases checkArmed_cases l s with ⟨h1, h2⟩ | ⟨h1, h2⟩ <;> simp_all
  · refine moves_of_check hp (!l.ok) .transportError ?_ (by simp [errorAt]) (by simp [errorAt]) (by simp [checkSteps])
    rcases checkOk_cases l s with ⟨h1, h2⟩ | ⟨h1, h2⟩ <;> simp_all
  · cases h; rw [advance_running (f := ⟨.bulkErase, 8, l⟩) (r := r) (by exact hp)]; exact .delays _ (by simp)
  · cases h; rw [State.call, hp]; exact .calls _ _ rfl (by simp)
  · cases h; rw [advance_running (f := ⟨.bulkErase, 10, l⟩) (r := r) (by exact hp)]; exact .spins rfl rfl
  · split at h
    · cases h; rw [goto_running hp]; exact .jumps 8 (by simp_all)
    · cases h; rw [advance_running hp]; exact .ready (by simp) (by simp_all)
  · cases h
    cases r with
    | nil => rw [returnWith_top hp]; exact .ends _ rfl (by simp)
    | cons g r => rw [returnWith_nested hp]; exact .returns _ g r rfl (by simp)
  · cases h

theorem moves_writePage {s t : State} {k : Nat} {l : Locals} {r : List Activation} (hp : s.pc = ⟨.writePage, k, l⟩ :: r)
    (h : stepWritePage k l s = .next t) : Moves ⟨.writePage, k, l⟩ r s t := by
  unfold stepWritePage at h
  split at h
  · refine moves_of_check hp (decide (s.cfg.PACKET_SIZE < l.n)) .illegalCommand ?_ (by simp +contextual [errorAt]) (by simp +contextual [errorAt]) (by simp [checkSteps])
    simpa using h
  · cases h; rw [State.call, hp]; exact .calls _ _ rfl (by simp)
  · refine moves_of_check hp (busy l.s) .deviceBusy ?_ (by simp +contextual [errorAt]) (by simp +contextual [errorAt]) (by simp [checkSteps])
    rcases checkNotBusy_cases l s with ⟨h1, h2⟩ | ⟨h1, h2⟩ <;> simp_all
  · cases h; rw [State.call, hp]; exact .calls _ _ rfl (by simp)
  · cases h; rw [State.call, hp]; exact .calls _ _ rfl (by simp)
  · refine moves_of_check hp (confirmFails s.cfg l.s) .writeEnableNotSet ?_ (by simp +contextual [errorAt]) (by simp +contextual [errorAt]) (by simp [checkSteps])
    rcases checkArmed_cases l s with ⟨h1, h2⟩ | ⟨h1, h2⟩ <;> simp_all
  · cases h; rw [advanceWith_running (f := ⟨.writePage, 6, l⟩) (r := r) (by exact hp)]; exact .reads rfl rfl
  · cases h; rw [advanceWith_running hp]; exact .builds rfl rfl
  · refine moves_of_check hp (!l.ok) .transportError ?_ (by simp [errorAt]) (by simp [errorAt]) (by simp [checkSteps])
    rcases checkOk_cases l s with ⟨h1, h2⟩ | ⟨h1, h2⟩ <;> simp_all
  · refine moves_of_check hp (decide (l.cnt ≠ 4 + l.n)) .lengthMismatch ?_ (by simp +contextual [errorAt]) (by simp +contextual [errorAt]) (by simp [checkSteps])
    rcases checkCount_cases (4 + l.n) l s with ⟨h1, h2⟩ | ⟨h1, h2⟩ <;> simp_all
  · cases h; rw [advance_running (f := ⟨.writePage, 11, l⟩) (r := r) (by exact hp)]; exact .delays _ (by simp)
  · cases h; rw [State.call, hp]; exact .calls _ _ rfl (by simp)
  · split at h
    · cases h; rw [goto_running hp]; exact .jumps 12 (by simp_all)
    · cases h; rw [advance_running hp]; exact .ready (by simp) (by simp_all)
  · cases h
    cases r with
    | nil => rw [returnWith_top hp]; exact .ends _ rfl (by simp)
    | cons g r => rw [returnWith_nested hp]; exact .returns _ g r rfl (by simp)
  · cases h

theorem moves_readPage {s t : State} {k : Nat} {l : Locals} {r : List Activation} (hp : s.pc = ⟨.readPage, k, l⟩ :: r)
    (h : stepReadPage k l s = .next t) : Moves ⟨.readPage, k, l⟩ r s t := by
  unfold stepReadPage at h
  split at h
  · refine moves_of_check hp (decide (s.cfg.PACKET_SIZE < l.n)) .illegalCommand ?_ (by simp +contextual [errorAt]) (by simp +contextual [errorAt]) (by simp [checkSteps])
    simpa using h
  · cases h; rw [State.call, hp]; exact .calls _ _ rfl (by simp)
  · refine moves_of_check hp (busy l.s) .deviceBusy ?_ (by simp +contextual [errorAt]) (by simp +contextual [errorAt]) (by simp [checkSteps])
    rcases checkNotBusy_cases l s with ⟨h1, h2⟩ | ⟨h1, h2⟩ <;> simp_all
  · refine moves_of_check hp (!l.ok) .transportError ?_ (by simp [errorAt]) (by simp [errorAt]) (by simp [checkSteps])
    rcases checkOk_cases l s with ⟨h1, h2⟩ | ⟨h1, h2⟩ <;> simp_all
  · rcases xferRead_cases l.n false true s with hh | ⟨cnt, ok, data, o, ha, hh⟩ <;> simp only [readPhase, hh] at h <;> cases h
    · exact .waits
    · have := Moves.receives (f := ⟨.readPage, 5, l⟩) (r := r) l.n cnt ok o data (by simp) ha
      simpa [Activation.next, State.advanceWith, State.mapTop, hp] using this
  · refine moves_of_check hp (!l.ok) .transportError ?_ (by simp [errorAt]) (by simp [errorAt]) (by simp [checkSteps])
    rcases checkOk_cases l s with ⟨h1, h2⟩ | ⟨h1, h2⟩ <;> simp_all
  · refine moves_of_check hp (decide (l.cnt ≠ l.n)) .lengthMismatch ?_ (by simp +contextual [errorAt]) (by simp +contextual [errorAt]) (by simp [checkSteps])
    rcases checkCount_cases (l.n) l s with ⟨h1, h2⟩ | ⟨h1, h2⟩ <;> simp_all
  · cases h; rw [advanceWith_running hp]; exact .swaps rfl rfl
  · cases h
    cases r with
    | nil => simp only [returnPage, hp]; exact .endsPage rfl rfl rfl
    | cons g r => simp only [returnPage, hp]; rw [returnWith_nested hp]; exact .returns _ g r rfl (by simp)
  · cases h

theorem moves_reverseBits {s t : State} {k : Nat} {l : Locals} {r : List Activation} (hp : s.pc = ⟨.reverseBits, k, l⟩ :: r)
    (h : stepReverseBits k l s = .next t) : Moves ⟨.reverseBits, k, l⟩ r s t := by
  unfold stepReverseBits at h
  split at h
  · cases h
    cases r with
    | nil => rw [returnWith_top hp]; exact .ends _ rfl (by simp)
    | cons g r => rw [returnWith_nested hp]; exact .returns _ g r rfl (by simp)
  · cases h

theorem moves_writeAll {s t : State} {k : Nat} {l : Locals} {r : List Activation} (hp : s.pc = ⟨.writeAll, k, l⟩ :: r)
    (h : stepWriteAll k l s = .next t) : Moves ⟨.writeAll, k, l⟩ r s t := by
  unfold stepWriteAll at h
  split at h
  · refine moves_of_check hp (decide (s.cfg.CAPACITY < l.len)) .sizeExceeded ?_ (by simp +contextual [errorAt]) (by simp +contextual [errorAt]) (by simp [checkSteps])
    simpa [checkSize] using h
  · cases h; rw [advance_running (f := ⟨.writeAll, 2, l⟩) (r := r) (by exact hp)]; exact .starts (by simp) rfl
  · unfold loopTest at h
    split at h
    · cases h
      cases r with
      | nil => rw [returnWith_top hp]; exact .ends _ rfl (by simp)
      | cons g r => rw [returnWith_nested hp]; exact .returns _ g r rfl (by simp_all)
    · cases h; rw [advance_running hp]; exact .loops (by simp) rfl (by simp_all)
  · unfold cutChunk at h; cases h; rw [advanceWith_running hp]; exact .cuts (by simp) rfl
  · cases h; rw [State.call, hp]; exact .calls _ _ rfl (by simp)
  · cases h; rw [advance_running (f := ⟨.writeAll, 6, l⟩) (r := r) (by exact hp)]; exact .advances (by simp)
  · unfold calcPercent at h; cases h; rw [advanceWith_running hp]; exact .measures (by simp)
  · unfold reportProgress at h
    split at h
    · cases h; rw [advance_running (f := ⟨.writeAll, 8, l⟩) (r := r) (by exact hp)]; exact .reports (by simp) (by simp_all)
    · cases h; rw [advance_running hp]; exact .silent (by simp) (by simp_all)
  · cases h; rw [goto_running hp]; exact .jumps 3 (by simp_all)
  · cases h

theorem moves_readAll {s t : State} {k : Nat} {l : Locals} {r : List Activation} (hp : s.pc = ⟨.readAll, k, l⟩ :: r)
    (h : stepReadAll k l s = .next t) : Moves ⟨.readAll, k, l⟩ r s t := by
  unfold stepReadAll at h
  split at h
  · refine moves_of_check hp (decide (s.cfg.CAPACITY < l.len)) .sizeExceeded ?_ (by simp +contextual [errorAt]) (by simp +contextual [errorAt]) (by simp [checkSteps])
    simpa [checkSize] using h
  · cases h; rw [advance_running (f := ⟨.readAll, 2, l⟩) (r := r) (by exact hp)]; exact .starts (by simp) rfl
  · unfold loopTest at h
    split at h
    · cases h
      cases r with
      | nil => rw [returnWith_top hp]; exact .ends _ rfl (by simp)
      | cons g r => rw [returnWith_nested hp]; exact .returns _ g r rfl (by simp_all)
    · cases h; rw [advance_running hp]; exact .loops (by simp) rfl (by simp_all)
  · unfold cutChunk at h; cases h; rw [advanceWith_running hp]; exact .cuts (by simp) rfl
  · cases h; rw [State.call, hp]; exact .calls _ _ rfl (by simp)
  · cases h; unfold disposeChunk; split
    · rw [advance_running (f := ⟨.readAll, 6, l⟩) (r := r) (by exact hp)]; exact .stores _ _ (.inr ⟨rfl, rfl, by assumption, rfl, rfl⟩)
    · rw [advance_running (f := ⟨.readAll, 6, l⟩) (r := r) (by exact hp)]; exact .toFF rfl rfl (by assumption)
    · rw [advance_running (f := ⟨.readAll, 6, l⟩) (r := r) (by exact hp)]; exact .toEQ rfl rfl (by assumption)
  · cases h; rw [advance_running (f := ⟨.readAll, 7, l⟩) (r := r) (by exact hp)]; exact .advances (by simp)
  · unfold calcPercent at h; cases h; rw [advanceWith_running hp]; exact .measures (by simp)
  · unfold reportProgress at h
    split at h
    · cases h; rw [advance_running (f := ⟨.readAll, 9, l⟩) (r := r) (by exact hp)]; exact .reports (by simp) (by simp_all)
    · cases h; rw [advance_running hp]; exact .silent (by simp) (by simp_all)
  · cases h; rw [goto_running hp]; exact .jumps 3 (by simp_all)
  · cases h

theorem moves_isEmpty {s t : State} {k : Nat} {l : Locals} {r : List Activation} (hp : s.pc = ⟨.isEmpty, k, l⟩ :: r)
    (h : stepIsEmpty k l s = .next t) : Moves ⟨.isEmpty, k, l⟩ r s t := by
  unfold stepIsEmpty at h
  split at h
  · cases h; rw [advance_running (f := ⟨.isEmpty, 1, l⟩) (r := r) (by exact hp)]; exact .blank rfl rfl
  · cases h; rw [State.call, hp]; exact .calls _ _ rfl (by simp)
  · cases h; exact .endsWithFlag _ (by simp)
  · cases h

theorem moves_programAndVerify {s t : State} {k : Nat} {l : Locals} {r : List Activation} (hp : s.pc = ⟨.programAndVerify, k, l⟩ :: r)
    (h : stepProgramAndVerify k l s = .next t) : Moves ⟨.programAndVerify, k, l⟩ r s t := by
  unfold stepProgramAndVerify at h
  split at h
  · cases h; rw [State.call, hp]; exact .calls _ _ rfl (by simp)
  · cases h; rw [State.call, hp]; exact .calls _ _ rfl (by simp)
  · cases h; rw [advance_running (f := ⟨.programAndVerify, 3, l⟩) (r := r) (by exact hp)]; exact .equal rfl rfl
  · cases h; rw [State.call, hp]; exact .calls _ _ rfl (by simp)
  · cases h; exact .endsWithFlag _ (by simp)
  · cases h

/-- The step of a running activation. -/
theorem runStep_moves {s t : State} {f : Activation} {r : List Activation} (hp : s.pc = f :: r)
    (h : runStep f s = .next t) : Moves f r s t := by
  rcases ho : f.outgoing with _ | bytes
  · rw [runStep_silent ho] at h
    obtain ⟨rt, k, l⟩ := f
    cases rt <;> simp only [routineStep] at h
    · exact moves_readStatus hp h
    · exact moves_writeEnable hp h
    · exact moves_writeDisable hp h
    · exact moves_readId hp h
    · exact moves_bulkErase hp h
    · exact moves_writePage hp h
    · exact moves_readPage hp h
    · exact moves_reverseBits hp h
    · exact moves_writeAll hp h
    · exact moves_readAll hp h
    · exact moves_isEmpty hp h
    · exact moves_programAndVerify hp h
  · rcases runStep_sends (s := s) ho with ⟨i, hd, he⟩ | ⟨-, he⟩
    · exact .sends bytes i t ho hd (he.symm.trans h)
    · rw [he] at h; cases h

/-! ## The machine -/

/-- What a step of the machine can make of `s`. -/
inductive Steps (s : State) : State → Prop
  /-- The reset input is asserted. -/
  | resets (l : List Bool) : s.resetLine = true :: l → Steps s (assertReset (s.withResetLine l))
  /-- Nothing is presented to the idle block. -/
  | idles (l : List Bool) : s.resetLine.head? ≠ some true → s.pc = [] → s.port = [] → Steps s (s.withResetLine l)
  /-- A command is taken and ends with `IllegalCommand`. -/
  | rejects (l : List Bool) (c : Command) (rest : List Command) : s.resetLine.head? ≠ some true → s.pc = [] →
      s.port = c :: rest → Steps s (raise .illegalCommand ((s.withResetLine l).taken c rest))
  /-- A command is taken and its operation begins. -/
  | accepts (l : List Bool) (c : Command) (rest : List Command) (r : Routine) (loc : Locals) :
      s.resetLine.head? ≠ some true → s.pc = [] → s.port = c :: rest →
      (r = .readAll → loc.sink = .toRbuf) ∧ (r = .writePage ∨ r = .readPage → loc.n ≤ s.cfg.PACKET_SIZE) →
      Steps s (((s.withResetLine l).taken c rest).withPc [{ routine := r, step := 1, loc := loc }])
  /-- The running activation moves. -/
  | runs (l : List Bool) (f : Activation) (r : List Activation) (t : State) : s.resetLine.head? ≠ some true →
      s.pc = f :: r → Moves f r (s.withResetLine l) t → Steps s t

/-- An acceptance in IDLE. -/
theorem accept_idle {s t : State} {r : Routine} {l : Locals} (hp : s.pc = []) (h : accept r l s = .next t) :
    t = s.withPc [{ routine := r, step := 1, loc := l }] := by
  simp only [accept, hp, State.call] at h
  cases h; rfl

/-- An acceptance of a page operation in IDLE. -/
theorem acceptPage_idle {s t : State} {r : Routine} {l : Locals} (hp : s.pc = []) (h : acceptPage r l s = .next t) :
    l.n ≤ s.cfg.PACKET_SIZE ∧ t = s.withPc [{ routine := r, step := 1, loc := l }] ∨ t = raise .illegalCommand s := by
  simp only [acceptPage, hp, State.call] at h
  split at h <;> cases h
  · exact .inr rfl
  · exact .inl ⟨by omega, rfl⟩

/-- Every step that answers a next state is one of these. -/
theorem step_steps {s t : State} (h : step s = .next t) : Steps s t := by
  rcases step_cases s with ⟨l, h1, h2⟩ | ⟨l, h1, h2⟩ <;> rw [h2] at h
  · cases h; exact .resets l h1
  · unfold sequencerStep at h
    split at h
    · cases h; exact .idles l h1 (by assumption) (by assumption)
    · rename_i c rest hp hq
      unfold acceptStep at h
      split at h
      · rename_i i hi
        have hp' : ((s.withResetLine l).taken c rest).pc = [] := hp
        unfold decodeCommand at hi
        split at hi <;> cases hi <;> simp only [exec] at h
        any_goals (rw [accept_idle hp' h]; exact .accepts l c rest _ _ h1 hp hq (by simp [readAllArgs]))
        all_goals
          rcases acceptPage_idle hp' h with ⟨hn, rfl⟩ | rfl
          · exact .accepts l c rest _ _ h1 hp hq (by simp; exact hn)
          · exact .rejects l c rest h1 hp hq
      · cases h; exact .rejects l c rest h1 hp hq
    · rename_i f r hp
      exact .runs l f r t h1 hp (runStep_moves hp h)

end Sys2Proof.Machine
end

