-- ==== Sys2Proof/Laws/PerInstr.lean ====
section
/-! SUPPORT. A family of facts about every instruction as syntax: the form of its code. -/

namespace Sys2Proof.Laws.CodeShape

/-- R80, R81, R87: an operation's code is a command word; a frame's code is bytes: its opcode alone (F-OP, F-OPR), or at least the four
bytes of an address header (F-AP, F-AR). -/
def Statement (i : Instr) : Prop :=
  (i.isFrame = false ∧ ∃ w, encode i = .command w) ∨
    (i.isFrame = true ∧ ∃ op rest, encode i = .frame (op :: rest) ∧ (rest = [] ∨ 3 ≤ rest.length))

theorem readStatus : Statement .readStatus := .inl ⟨rfl, _, rfl⟩
theorem writeEnable : Statement .writeEnable := .inl ⟨rfl, _, rfl⟩
theorem writeDisable : Statement .writeDisable := .inl ⟨rfl, _, rfl⟩
theorem readId : Statement .readId := .inl ⟨rfl, _, rfl⟩
theorem bulkErase : Statement .bulkErase := .inl ⟨rfl, _, rfl⟩
theorem writePage (addr : BitVec 24) (len : BitVec 32) : Statement (.writePage addr len) := .inl ⟨rfl, _, rfl⟩
theorem readPage (addr : BitVec 24) (len : BitVec 32) : Statement (.readPage addr len) := .inl ⟨rfl, _, rfl⟩
theorem reverseBits (b : Byte) : Statement (.reverseBits b) := .inl ⟨rfl, _, rfl⟩
theorem writeAll (len : BitVec 32) : Statement (.writeAll len) := .inl ⟨rfl, _, rfl⟩
theorem readAll (len : BitVec 32) : Statement (.readAll len) := .inl ⟨rfl, _, rfl⟩
theorem isEmpty : Statement .isEmpty := .inl ⟨rfl, _, rfl⟩
theorem programAndVerify (len : BitVec 32) : Statement (.programAndVerify len) := .inl ⟨rfl, _, rfl⟩
theorem rdsr : Statement .rdsr := .inr ⟨rfl, _, _, rfl, .inl rfl⟩
theorem wren : Statement .wren := .inr ⟨rfl, _, _, rfl, .inl rfl⟩
theorem wrdi : Statement .wrdi := .inr ⟨rfl, _, _, rfl, .inl rfl⟩
theorem rdid : Statement .rdid := .inr ⟨rfl, _, _, rfl, .inl rfl⟩
theorem be : Statement .be := .inr ⟨rfl, _, _, rfl, .inl rfl⟩
theorem pp (addr : BitVec 24) (payload : List Byte) : Statement (.pp addr payload) :=
  .inr ⟨rfl, _, _, rfl, .inr (by simp [addrBytes])⟩
theorem read (addr : BitVec 24) : Statement (.read addr) := .inr ⟨rfl, _, _, rfl, .inr (by simp [addrBytes])⟩

end Sys2Proof.Laws.CodeShape
end

