-- ==== Sys2Proof/Tests/Slice0.lean ====
section
/-! SUPPORT. The model's own tests. Words, frames, bytes and steps are those of 95_test_vectors.md; after them, for each statement with
hypotheses, a concrete input that meets all of them. -/

namespace Sys2Proof.Tests

open Sys2Proof.Machine

/-! ## Decoding: a word written out for each constructor (95_test_vectors.md sections 2.2 and 2.4) -/

theorem test_decode_READ_STATUS : decodeTableWord 64 0x0000000000000000 = some .readStatus := by decide
theorem test_decode_WRITE_ENABLE : decodeTableWord 64 0x0100000000000000 = some .writeEnable := by decide
theorem test_decode_WRITE_DISABLE : decodeTableWord 64 0x0200000000000000 = some .writeDisable := by decide
theorem test_decode_READ_ID : decodeTableWord 64 0x0300000000000000 = some .readId := by decide
theorem test_decode_BULK_ERASE : decodeTableWord 64 0x04ABCDEF12345678 = some .bulkErase := by decide
theorem test_decode_WRITE_PAGE : decodeTableWord 64 0x053FFF0000000100 = some (.writePage 0x3FFF00 256) := by decide
theorem test_decode_READ_PAGE : decodeTableWord 64 0x0600000800000002 = some (.readPage 0x000008 2) := by decide
theorem test_decode_REVERSE_BITS : decodeTableWord 64 0x07000000FFFFFF01 = some (.reverseBits 0x01) := by decide
theorem test_decode_WRITE_ALL : decodeTableWord 64 0x08FFFFFF0000000A = some (.writeAll 10) := by decide
theorem test_decode_READ_ALL : decodeTableWord 64 0x09000000FFFFFFFF = some (.readAll 4294967295) := by decide
theorem test_decode_IS_EMPTY : decodeTableWord 64 0x0A00000000000000 = some .isEmpty := by decide
theorem test_decode_PROGRAM_AND_VERIFY : decodeTableWord 64 0x0B0000000000000A = some (.programAndVerify 10) := by decide
theorem test_decode_RDSR : decodeTableWord 8 0x05 = some .rdsr := by decide
theorem test_decode_WREN : decodeTableWord 8 0x06 = some .wren := by decide
theorem test_decode_WRDI : decodeTableWord 8 0x04 = some .wrdi := by decide
theorem test_decode_RDID : decodeTableWord 8 0x9F = some .rdid := by decide
theorem test_decode_BE : decodeTableWord 8 0xC7 = some .be := by decide
theorem test_decode_PP :
    decode (.frame [0x02, 0x01, 0x23, 0x45, 0xDE, 0xAD]) = .ok (.pp 0x012345 [0xDE, 0xAD]) := by rfl
/-- `02 01 23 45`, its first byte the least significant. -/
theorem test_decode_PP_table : decodeTableWord 32 0x45230102 = some (.pp 0x012345 []) := by decide
theorem test_decode_READ : decode (.frame [0x03, 0x3F, 0xFF, 0x00]) = .ok (.read 0x3FFF00) := by rfl
/-- `03 3F FF 00`, its first byte the least significant. -/
theorem test_decode_READ_table : decodeTableWord 32 0x00FF3F03 = some (.read 0x3FFF00) := by decide
/-- R90. -/
theorem test_decode_reserved_first : decodeTableWord 64 0x0C00000000000000 = none := by decide
theorem test_decode_reserved_last : decodeTableWord 64 0xFF00000000000000 = none := by decide
/-- R86, log entry 22. -/
theorem test_decode_unknown_opcode : decodeTableWord 8 0x0B = none := by decide
/-- R85, log entry 22. -/
theorem test_decode_wrong_length : decode (.frame [0x03, 0x00, 0x00]) = .error (.wrongLength 0x03) := by rfl

theorem test_encode_WRITE_PAGE : encode (.writePage 0x000004 4) = .command 0x0500000400000004 := by decide
theorem test_encode_PP : encode (.pp 0x012345 [0xDE, 0xAD]) = .frame [0x02, 0x01, 0x23, 0x45, 0xDE, 0xAD] := by decide
/-- R94: the line `WRITE_PAGE 0x000004, 4`, its numbers in decimal. -/
theorem test_assembly : (Instr.writePage 0x000004 4).assembly = "WRITE_PAGE 4, 4" := by decide

/-! ## Well-formedness -/

/-- The configuration of 95_test_vectors.md's programs P1 and P7: ten bytes, packets of four. -/
def tiny : Cfg := { Cfg.standard with CAPACITY := 10, PACKET_SIZE := 4 }

/-- R65: five payload bytes where a packet has four. -/
theorem test_wellFormed_refuses_long_payload : (Instr.pp 0 [1, 2, 3, 4, 5]).wellFormed tiny = false := by decide
theorem test_wellFormed_takes_full_payload : (Instr.pp 0 [1, 2, 3, 4]).wellFormed tiny = true := by decide
/-- R67: the last byte of the device, and one more. -/
theorem test_insideDevice_refuses : (Instr.writePage 0x3FFFFF 2).insideDevice Cfg.standard = false := by decide
theorem test_insideDevice_takes : (Instr.writePage 0x3FFFFF 1).insideDevice Cfg.standard = true := by decide

/-! ## Flags, operands, memory -/

/-- 95_test_vectors.md section 2.1. -/
theorem test_rev8 : [0x11#8, 0x12#8, 0x13#8, 0x14#8, 0x15#8].map rev8 = [0x88#8, 0x48#8, 0xC8#8, 0x28#8, 0xA8#8] := by decide
/-- 95_test_vectors.md section 2.3, rows `0xFD` and `0x1C`. -/
theorem test_status_FD : busy 0xFD = true ∧ confirmFails Cfg.standard 0xFD = true := by decide
theorem test_status_1C : busy 0x1C = false ∧ confirmFails { Cfg.standard with WEL_CHECK_LITERAL := true } 0x1C = false := by
  decide
/-- 95_test_vectors.md section 2.2. -/
theorem test_frame_unswapped :
    programFrame Cfg.standard 0x012345 [0xDE, 0xAD] = [0x02, 0x01, 0x23, 0x45, 0xDE, 0xAD] := by decide
theorem test_frame_swapped :
    programFrame { Cfg.standard with BITSWAP := true } 0x012345 [0xDE, 0xAD] = [0x02, 0x01, 0x23, 0x45, 0x7B, 0xB5] := by
  decide
/-- A value that unlisted addresses read as is not listed. -/
theorem test_memory_canonical :
    (({ fill := some 0xFF, cells := [] } : Memory).write 3 0x12).write 3 0xFF = { fill := some 0xFF, cells := [] } := by
  decide
theorem test_memory_order : ((Memory.unknown.write 5 0x01).write 2 0x03).cells = [(2, 0x03), (5, 0x01)] := by decide

/-! ## A small machine -/

/-- The idle machine with a list of answers. -/
def idle (answers : List Answer) : State := { State.reset with cfg := tiny, oracle := .script answers }

/-- A running activation with a list of answers. -/
def at_ (f : Activation) (answers : List Answer) : State := { idle answers with pc := [f] }

/-- What the machine does next, as a list of facts: the control stack, the actions, the result. -/
def seen (o : Outcome) : Option (List (Routine × Nat) × List Action × BitVec 4) :=
  match o with
  | .next t => some (t.pc.map (fun f => (f.routine, f.step)), t.trace, t.RESULT)
  | .fault _ => none
  | .refused _ => none

/-! ## One step of each instruction -/

/-- A command word at the port of the idle block. -/
def presented (w : BitVec 64) : State := { idle [] with port := [{ word := w }] }

/-- V5.1: `READ_STATUS` is accepted. -/
theorem test_READ_STATUS_accepted : seen (step (presented 0x0000000000000000)) = some ([(.readStatus, 1)], [], 0) := by decide
/-- V5.4: its read phase fails. -/
theorem test_READ_STATUS_fails :
    seen (step (at_ { routine := .readStatus, step := 4, loc := { ok := false } } [])) =
      some ([], [.done (.fail .transportError) none (some false)], 1) := by decide
/-- V5.6. -/
theorem test_WRITE_ENABLE_done :
    seen (step (at_ { routine := .writeEnable, step := 3 } [])) = some ([], [.done .ok none none], 0) := by decide
theorem test_WRITE_ENABLE_fails :
    seen (step (at_ { routine := .writeEnable, step := 2 } [])) =
      some ([], [.done (.fail .transportError) none (some false)], 1) := by decide
theorem test_WRITE_DISABLE_done :
    seen (step (at_ { routine := .writeDisable, step := 3 } [])) = some ([], [.done .ok none none], 0) := by decide
/-- R114: the three bytes go to `RBUF[0..2]`. -/
theorem test_READ_ID_stores :
    seen (step (at_ { routine := .readId, step := 5, loc := { d := [0xC2, 0x20, 0x16] } } [])) =
      some ([(.readId, 6)], [.memWrite 0 [0xC2, 0x20, 0x16]], 0) := by decide
/-- R130: a busy device. -/
theorem test_BULK_ERASE_busy :
    seen (step (at_ { routine := .bulkErase, step := 2, loc := { s := 0x01 } } [])) =
      some ([], [.done (.fail .deviceBusy) none (some false)], 2) := by decide
/-- R132: half a second before each poll. -/
theorem test_BULK_ERASE_delay :
    seen (step (at_ { routine := .bulkErase, step := 8 } [])) = some ([(.bulkErase, 9)], [.delay 500], 0) := by decide
/-- R194: the count of a program frame of two bytes is 6. -/
theorem test_WRITE_PAGE_count :
    seen (step (at_ { routine := .writePage, step := 10, loc := { n := 2, cnt := 5 } } [])) =
      some ([], [.done (.fail .lengthMismatch) none (some false)], 4) := by decide
/-- R196: one byte more than a packet. -/
theorem test_WRITE_PAGE_illegal :
    seen (step (presented 0x0500000000000005)) = some ([], [.done (.fail .illegalCommand) none (some false)], 6) := by decide
/-- R134: at top level the bytes are stored and the operation is done. -/
theorem test_READ_PAGE_done :
    seen (step (at_ { routine := .readPage, step := 9, loc := { n := 2, out := [0x19, 0x1A] } } [])) =
      some ([], [.memWrite 0 [0x19, 0x1A], .done .ok none none], 0) := by decide
theorem test_READ_PAGE_illegal :
    seen (step (presented 0x0600000000000005)) = some ([], [.done (.fail .illegalCommand) none (some false)], 6) := by decide
/-- R145: `REVERSE_BITS 0xC7` gives `0xE3`. -/
theorem test_REVERSE_BITS_done :
    seen (step (at_ { routine := .reverseBits, step := 1, loc := { b := 0xC7 } } [])) =
      some ([], [.done .ok (some 0xE3) none], 0) := by decide
/-- R161. -/
theorem test_WRITE_ALL_too_long :
    seen (step (at_ { routine := .writeAll, step := 1, loc := { len := 11 } } [])) =
      some ([], [.done (.fail .sizeExceeded) none (some false)], 5) := by decide
/-- R166: 40 percent after four of ten bytes. -/
theorem test_WRITE_ALL_progress :
    seen (step (at_ { routine := .writeAll, step := 8, loc := { p := 40 } } [])) =
      some ([(.writeAll, 9)], [.emit (.progress 40)], 0) := by decide
/-- R163: the sink `TO_RBUF`. -/
theorem test_READ_ALL_stores :
    seen (step (at_ { routine := .readAll, step := 6, loc := { out := [0x11, 0x12], n := 2 } } [])) =
      some ([(.readAll, 7)], [.memWrite 0 [0x11, 0x12]], 0) := by decide
/-- R164: it calls `READ_ALL` for the whole capacity. -/
theorem test_IS_EMPTY_calls :
    seen (step (at_ { routine := .isEmpty, step := 2 } [])) = some ([(.readAll, 1), (.isEmpty, 2)], [], 0) := by decide
/-- R164: it ends with its flag. -/
theorem test_IS_EMPTY_done :
    seen (step { at_ { routine := .isEmpty, step := 3 } [] with x := { State.reset.x with ALLFF := true } }) =
      some ([], [.done .ok none (some true)], 0) := by decide
/-- R165: a difference is an `Ok` with the flag clear. -/
theorem test_PROGRAM_AND_VERIFY_differs :
    seen (step (at_ { routine := .programAndVerify, step := 5 } [])) = some ([], [.done .ok none (some false)], 0) := by decide

/-- 95_test_vectors.md section 2.2: each frame's bytes and chip-select flags. -/
theorem test_RDSR_sent :
    seen (step (at_ { routine := .readStatus, step := 1 } [.returned 1 true []])) =
      some ([(.readStatus, 2)], [.write [0x05] true false 1 true], 0) := by decide
theorem test_WREN_sent :
    seen (step (at_ { routine := .writeEnable, step := 1 } [.returned 1 true []])) =
      some ([(.writeEnable, 2)], [.write [0x06] true true 1 true], 0) := by decide
theorem test_WRDI_sent :
    seen (step (at_ { routine := .writeDisable, step := 1 } [.returned 1 true []])) =
      some ([(.writeDisable, 2)], [.write [0x04] true true 1 true], 0) := by decide
theorem test_RDID_sent :
    seen (step (at_ { routine := .readId, step := 1 } [.returned 1 true []])) =
      some ([(.readId, 2)], [.write [0x9F] true false 1 true], 0) := by decide
theorem test_BE_sent :
    seen (step (at_ { routine := .bulkErase, step := 6 } [.returned 1 true []])) =
      some ([(.bulkErase, 7)], [.write [0xC7] true true 1 true], 0) := by decide
theorem test_PP_sent :
    seen (step (at_ { routine := .writePage, step := 8, loc := { frame := [0x02, 0, 0, 4, 0x15] } } [.returned 5 true []])) =
      some ([(.writePage, 9)], [.write [0x02, 0, 0, 4, 0x15] true true 5 true], 0) := by decide
theorem test_READ_sent :
    seen (step (at_ { routine := .readPage, step := 3, loc := { a := 8, n := 2 } } [.returned 4 true []])) =
      some ([(.readPage, 4)], [.write [0x03, 0, 0, 8] true false 4 true], 0) := by decide

/-- Reset: any step of an operation, and no `Done`. -/
theorem test_reset_in_operation :
    (seen (step { at_ { routine := .bulkErase, step := 8 } [] with resetLine := [true] })).map (fun r => (r.1, r.2.1)) =
      some ([], []) := by rfl

/-! ## The host's two questions, on two rows -/

theorem test_withFetchWord_command :
    seen (step (State.reset.withFetchWord 64 0x080000000000000A)) = some ([(.writeAll, 1)], [], 0) := by decide
theorem test_withFetchWord_frame : ((State.reset.withFetchWord 8 0x06).pc.map Activation.outgoing) = [some [0x06]] := by decide

/-! ## Inputs that meet the hypotheses of the statements -/

/-- A device that is ready, and one whose latch is set. -/
def ready : Reading := { sent := 1, got := 1, byte := 0x00 }
def armed : Reading := { sent := 1, got := 1, byte := 0x02 }
/-- A device that is busy (P1). -/
def busyR : Reading := { sent := 1, got := 1, byte := 0x03 }
def arming : Arming := { entry := ready, enable := 1, confirm := armed }
def erase : EraseRun := { arm := arming, sent := 1, polls := { busy := [busyR, busyR], last := ready } }
/-- A page whose first poll is clear, and one with a busy poll. -/
def page : PageRun := { arm := arming, polls := { busy := [], last := ready } }
def slowPage : PageRun := { arm := arming, polls := { busy := [busyR], last := ready } }
def readRun (d : List Byte) : ReadRun := { entry := ready, sent := 4, data := d }
/-- The three chunks of ten bytes. -/
def pages : List PageRun := [page, slowPage, page]
def reads : List ReadRun := [readRun [0x11, 0x12, 0x13, 0x14], readRun [0x15, 0x16, 0x17, 0x18], readRun [0x19, 0x1A]]

theorem erase_good : erase.good tiny := ⟨⟨by decide, by decide⟩, by simp [erase, busyR, busy], by decide⟩
theorem page_good : page.good tiny := ⟨⟨by decide, by decide⟩, by simp [page], by decide⟩
theorem slowPage_good : slowPage.good tiny := ⟨⟨by decide, by decide⟩, by simp [slowPage, busyR, busy], by decide⟩
theorem pages_good : writeRunsGood tiny 10 pages :=
  ⟨by decide, by simp [pages, page_good, slowPage_good]⟩
theorem reads_good : readRunsGood tiny 10 reads :=
  ⟨by decide, by simp [reads, readRun, List.zipIdx, ReadRun.good, chunkLen, tiny, ready, busy]⟩

/-! ### Encodings -/

theorem witness_DecodedFrameHasOneByteSequence : decodeFrame [0x02, 0x3F, 0xFF, 0x00, 0x15] = .ok (.pp 0x3FFF00 [0x15]) := by rfl

/-- One word for each clause of `OperationCodesNameTheOperations`; the last clause at both ends of its range. -/
theorem witness_OperationCodesNameTheOperations :
    opField 0x0000000000000000 = 0x00 ∧ opField 0x0100000000000000 = 0x01 ∧ opField 0x0200000000000000 = 0x02 ∧
    opField 0x0300000000000000 = 0x03 ∧ opField 0x04ABCDEF12345678 = 0x04 ∧ opField 0x0500000400000004 = 0x05 ∧
    opField 0x0601234500000000 = 0x06 ∧ opField 0x07000000FFFFFF01 = 0x07 ∧ opField 0x0800000000400001 = 0x08 ∧
    opField 0x09000000FFFFFFFF = 0x09 ∧ opField 0x0A00000000000000 = 0x0A ∧ opField 0x0B0000000000000A = 0x0B ∧
    0x0C ≤ (opField 0x0C00000000000000).toNat ∧ 0x0C ≤ (opField 0xFF00000000000000).toNat := by decide

theorem witness_OpcodeBytesNameTheFrames :
    0x0B#8 ∉ [0x05#8, 0x06#8, 0x04#8, 0x9F#8, 0xC7#8, 0x02#8, 0x03#8] ∧
    0x00#8 ∉ [0x05#8, 0x06#8, 0x04#8, 0x9F#8, 0xC7#8, 0x02#8, 0x03#8] := by decide

/-! ### The step -/

theorem witness_StepRunsTheDecodedInstruction_command :
    (presented 0x080000000000000A).resetLine = [] ∧ (presented 0x080000000000000A).pc = [] ∧
    (presented 0x080000000000000A).port = [{ word := 0x080000000000000A }] ∧
    decodeCommand 0x080000000000000A = .ok (.writeAll 10) := ⟨rfl, rfl, rfl, rfl⟩

theorem witness_StepRunsTheDecodedInstruction_frame :
    (at_ { routine := .writeEnable, step := 1 } []).pc = [{ routine := .writeEnable, step := 1 }] ∧
    Activation.outgoing { routine := .writeEnable, step := 1 } = some [0x06] ∧ decodeFrame [0x06] = .ok .wren :=
  ⟨rfl, rfl, rfl⟩

theorem witness_StepRunsTheDecodedInstruction_quiet :
    ({ idle [] with resetLine := [false, true] } : State).resetLine = false :: [true] := rfl

/-- In IDLE, with a command presented and without one, and during an operation. -/
theorem witness_ResetAtAnyTime :
    ({ presented 0x0400000000000000 with resetLine := [true] } : State).port = [{ word := 0x0400000000000000 }] ∧
    ({ idle [] with resetLine := [true] } : State).port = [] ∧
    ({ idle [] with resetLine := [true] } : State).resetLine = true :: [] ∧
    ({ idle [] with resetLine := [true] } : State).pc = [] ∧
    ({ at_ { routine := .readId, step := 4 } [] with resetLine := [true, false] } : State).resetLine = true :: [false] :=
  ⟨rfl, rfl, rfl, rfl, rfl⟩

/-- Both clauses; a page operation of no byte and of a whole packet. -/
theorem witness_CommandsAreAcceptedInIdleOnly :
    (idle []).pc = [] ∧ (0 : BitVec 32).toNat ≤ (idle []).cfg.PACKET_SIZE ∧ (4 : BitVec 32).toNat ≤ (idle []).cfg.PACKET_SIZE ∧
    (at_ { routine := .bulkErase, step := 8 } []).pc ≠ [] ∧ Instr.isFrame .writeEnable = false ∧
    ∃ t, step (at_ { routine := .bulkErase, step := 8 } []) = .next t :=
  ⟨rfl, by decide, by decide, by decide, rfl, _, rfl⟩

theorem witness_IllegalCommandsCompleteAtOnce :
    (presented 0x0C00000000000000).port = [{ word := 0x0C00000000000000 }] ∧
    0x0C ≤ (opField 0x0C00000000000000).toNat ∧ 0x0C ≤ (opField 0xFF00000000000000).toNat ∧
    (idle []).pc = [] ∧ (idle []).cfg.PACKET_SIZE < (5 : BitVec 32).toNat := ⟨rfl, by decide, by decide, rfl, by decide⟩

/-! ### Frames -/

theorem witness_FramesAreHandedToTheTransport :
    Instr.isFrame (.pp 4 [0x15]) = true ∧ (idle [.returned 5 true []]).oracle = .script (.returned 5 true [] :: []) ∧
    (idle [.returned 0 false []]).oracle = .script (.returned 0 false [] :: []) := ⟨rfl, rfl, rfl⟩

theorem witness_CallThatNeverReturnsHoldsTheBlock :
    (idle [.neverReturns]).oracle = .script (.neverReturns :: []) ∧ Instr.isFrame .rdsr = true := ⟨rfl, rfl⟩

/-- Sending a header, and in its read phase; reset not asserted, and asserted. -/
theorem witness_ResetEndsACallThatNeverReturns :
    Activation.makesCall { routine := .readStatus, step := 1 } = true ∧
    Activation.makesCall { routine := .readId, step := 3 } = true ∧
    (at_ { routine := .readId, step := 3 } [.neverReturns]).pc = [{ routine := .readId, step := 3 }] ∧
    (at_ { routine := .readId, step := 3 } [.neverReturns]).oracle = .script (.neverReturns :: []) ∧
    (at_ { routine := .readId, step := 3 } [.neverReturns]).resetLine = [] ∧
    (at_ { routine := .readId, step := 3 } [.neverReturns]).controlSound ∧
    ({ at_ { routine := .readId, step := 3 } [.neverReturns] with resetLine := [true] } : State).resetLine = true :: [] :=
  ⟨rfl, rfl, rfl, rfl, rfl, by
    simp [State.controlSound, stackSound, at_, Activation.sound, Activation.localsSound, firstStep, lastStep], rfl⟩

/-- N14, R134 (b): a read of no byte tells nothing of the line; R55: a read of one byte releases it. -/
theorem test_zeroLengthReadLeavesTheLineUnknown :
    (xferRead 0 false true (idle [.returned 0 true []])).chipSelect = .unknown ∧
    (xferRead 1 false true (idle [.returned 1 true [0x00]])).chipSelect = .released := ⟨rfl, rfl⟩

/-- R252, R232: after a reset in a hung call the next operation's call is answered by what the script holds next. -/
theorem test_resetEndsAHungCall :
    (match step { at_ { routine := .writeEnable, step := 1 } [.neverReturns, .returned 1 true []] with
        resetLine := [true], port := [{ word := 0x0200000000000000 }] } with
      | .next t => (match step t with
        | .next u => (match step u with
          | .next v => decide (v.trace = [.write [0x04] true true 1 true])
          | _ => false)
        | _ => false)
      | _ => false) = true := by decide

/-- The reference device with its latch set, and a payload up to its last byte. -/
def flashDevice : Device :=
  { flash := { fill := some 0xFF, cells := [] }, wel := true, busy := 0, ke := 2, kp := 1, id := [0xC2, 0x20, 0x16], held := [] }

theorem witness_ReferenceDeviceTakesTheFrames :
    ({ idle [] with oracle := .device flashDevice } : State).oracle = .device flashDevice ∧ flashDevice.busy = 0 ∧
    flashDevice.wel = true ∧ flashDevice.flash.wf ∧ (8 : BitVec 24).toNat + [0x19#8, 0x1A#8].length ≤ tiny.CAPACITY ∧
    ({ flashDevice with busy := 1 } : Device).busy ≠ 0 ∧ ({ flashDevice with wel := false } : Device).wel = false :=
  ⟨rfl, rfl, rfl, by decide, by decide, by decide, rfl⟩

theorem witness_ReferenceDeviceShowsItsStatus :
    ({ idle [] with oracle := .device flashDevice } : State).oracle = .device flashDevice ∧
    ({ idle [] with oracle := .device { flashDevice with busy := 1 } } : State).pc = [] ∧
    ({ idle [] with oracle := .device { flashDevice with busy := 1 } } : State).resetLine = [] := ⟨rfl, rfl, rfl⟩

/-! ### Operations -/

theorem witness_ReadStatusReturnsTheDevicesByte :
    (idle [.returned 1 true [], .returned 1 true [0xE0]]).oracle = .script (.returned 1 true [] :: .returned 1 true [0xE0] :: []) ∧
    (idle [.returned 1 true [], .returned 0 false [0x00]]).oracle =
      .script (.returned 1 true [] :: .returned 0 false [0x00] :: []) ∧
    (idle [.returned 0 false []]).oracle = .script (.returned 0 false [] :: []) ∧
    (idle []).pc = [] ∧ (idle []).resetLine = [] ∧ [0xE0#8].head? = some 0xE0 := ⟨rfl, rfl, rfl, rfl, rfl, rfl⟩

theorem witness_WriteEnableAndDisableSendOneByte :
    (idle [.returned 1 true []]).oracle = .script (.returned 1 true [] :: []) ∧ (idle [.returned 1 true []]).pc = [] ∧
    (idle [.returned 1 true []]).resetLine = [] := ⟨rfl, rfl, rfl⟩

theorem witness_ReadIdStoresThreeBytes :
    (idle [.returned 1 true [], .returned 3 true [0xC2, 0x20, 0x16]]).oracle =
      .script (.returned 1 true [] :: .returned 3 true [0xC2, 0x20, 0x16] :: []) ∧
    (idle [.returned 1 true [], .returned 0 false []]).oracle = .script (.returned 1 true [] :: .returned 0 false [] :: []) ∧
    (idle [.returned 0 false []]).oracle = .script (.returned 0 false [] :: []) ∧ [0xC2#8, 0x20#8, 0x16#8][2]? = some 0x16 :=
  ⟨rfl, rfl, rfl, rfl⟩

theorem witness_StatusDecisionsAreTheMasks :
    tiny.WEL_CHECK_LITERAL = false ∧ ({ tiny with WEL_CHECK_LITERAL := true } : Cfg).WEL_CHECK_LITERAL = true := ⟨rfl, rfl⟩

theorem witness_BulkEraseRunsUntilThePollIsClear :
    erase.good (idle (erase.answers ++ [])).cfg ∧ (idle (erase.answers ++ [])).oracle = .script (erase.answers ++ []) ∧
    (idle (erase.answers ++ [])).pc = [] ∧ (idle (erase.answers ++ [])).resetLine = [] := ⟨erase_good, rfl, rfl, rfl⟩

theorem witness_BusyDeviceKeepsBulkErasePolling :
    (∀ r ∈ [busyR, busyR], busy r.byte = true) ∧
    (at_ { routine := .bulkErase, step := 8 } ([busyR, busyR].flatMap Reading.answers ++ [])).oracle =
      .script ([busyR, busyR].flatMap Reading.answers ++ []) ∧
    (at_ { routine := .bulkErase, step := 8 } ([busyR, busyR].flatMap Reading.answers ++ [])).pc =
      [{ routine := .bulkErase, step := 8, loc := {} }] := ⟨by simp [busyR, busy], rfl, rfl⟩

/-- A whole packet and an empty one. -/
theorem witness_WritePageProgramsTheChunk :
    (4 : BitVec 32).toNat ≤ tiny.PACKET_SIZE ∧ (0 : BitVec 32).toNat ≤ tiny.PACKET_SIZE ∧ slowPage.good tiny ∧ page.good tiny ∧
    (idle (slowPage.answers 4 ++ [])).oracle = .script (slowPage.answers (4 : BitVec 32).toNat ++ []) ∧
    (idle (page.answers 0 ++ [])).oracle = .script (page.answers (0 : BitVec 32).toNat ++ []) ∧ (idle []).pc = [] :=
  ⟨by decide, by decide, slowPage_good, page_good, rfl, rfl, rfl⟩

theorem witness_ReadPageStoresTheBytes :
    (2 : BitVec 32).toNat ≤ tiny.PACKET_SIZE ∧ (readRun [0x19, 0x1A]).good (2 : BitVec 32).toNat ∧
    (readRun []).good (0 : BitVec 32).toNat ∧
    (idle ((readRun [0x19, 0x1A]).answers ++ [])).oracle = .script ((readRun [0x19, 0x1A]).answers ++ []) :=
  ⟨by decide, ⟨by decide, by decide⟩, ⟨by decide, by decide⟩, rfl⟩

theorem witness_ReverseBitsReversesTheByte :
    opField 0x07000000FFFFFF01 = 0x07 ∧ (idle []).pc = [] ∧ (idle []).resetLine = [] ∧ 0 < 8 ∧ 7 < 8 := by decide

/-- Ten bytes in three chunks; no byte in none. -/
theorem witness_WriteAllProgramsEveryChunk :
    tiny.wf ∧ (10 : BitVec 32).toNat ≤ tiny.CAPACITY ∧ writeRunsGood tiny (10 : BitVec 32).toNat pages ∧
    (idle (writeAllAnswers tiny 10 pages ++ [])).oracle = .script (writeAllAnswers tiny (10 : BitVec 32).toNat pages ++ []) ∧
    (10 : BitVec 32) ≠ 0 ∧ writeRunsGood tiny (0 : BitVec 32).toNat [] ∧
    (idle (writeAllAnswers tiny 0 [] ++ [])).oracle = .script (writeAllAnswers tiny (0 : BitVec 32).toNat [] ++ []) :=
  ⟨by decide, by decide, pages_good, rfl, by decide, ⟨by decide, by simp⟩, rfl⟩

theorem witness_ReadAllFillsTheBuffer :
    tiny.wf ∧ (idle []).RBUF.wf ∧ (10 : BitVec 32).toNat ≤ tiny.CAPACITY ∧ readRunsGood tiny (10 : BitVec 32).toNat reads ∧
    (idle (reads.flatMap ReadRun.answers ++ [])).oracle = .script (reads.flatMap ReadRun.answers ++ []) ∧
    readRunsGood tiny (0 : BitVec 32).toNat [] :=
  ⟨by decide, by decide, by decide, reads_good, rfl, by decide, by simp⟩

theorem witness_IsEmptyAnswersWhetherAllErased :
    tiny.wf ∧ readRunsGood tiny tiny.CAPACITY reads ∧
    (idle (reads.flatMap ReadRun.answers ++ [])).oracle = .script (reads.flatMap ReadRun.answers ++ []) :=
  ⟨by decide, reads_good, rfl⟩

/-- Both clauses: an image as long as the device, and one byte more. -/
theorem witness_ProgramAndVerifyComparesTheImage :
    tiny.wf ∧ erase.good tiny ∧ (10 : BitVec 32).toNat ≤ tiny.CAPACITY ∧ writeRunsGood tiny (10 : BitVec 32).toNat pages ∧
    readRunsGood tiny (10 : BitVec 32).toNat reads ∧
    (idle (erase.answers ++ (writeAllAnswers tiny 10 pages ++ (reads.flatMap ReadRun.answers ++ [])))).oracle =
      .script (erase.answers ++
        (writeAllAnswers tiny (10 : BitVec 32).toNat pages ++ (reads.flatMap ReadRun.answers ++ []))) ∧
    tiny.CAPACITY < (11 : BitVec 32).toNat ∧ (idle (erase.answers ++ [])).oracle = .script (erase.answers ++ []) :=
  ⟨by decide, erase_good, by decide, pages_good, reads_good, rfl, by decide, rfl⟩

theorem witness_OversizedRequestsAreRejectedFirst :
    (idle []).pc = [] ∧ (idle []).resetLine = [] ∧ (idle []).cfg.CAPACITY < (11 : BitVec 32).toNat ∧
    (idle []).cfg.CAPACITY < (4294967295 : BitVec 32).toNat ∧ (10 : BitVec 32).toNat ≤ (idle []).cfg.CAPACITY := by decide

/-- The step that emits, and one that does not. -/
theorem witness_SpinComesFromTheErasePollOnly :
    (∃ t, step (at_ { routine := .bulkErase, step := 10 } []) = .next t ∧ .emit .spin ∈ t.trace) ∧
    ∃ t, step (at_ { routine := .writePage, step := 13 } []) = .next t := ⟨⟨_, rfl, by decide⟩, _, rfl⟩

/-- A percentage that has changed, and one that has not, in both loops. -/
theorem witness_ProgressIsReportedOnChange :
    (at_ { routine := .writeAll, step := 8, loc := { p := 40 } } []).pc = [{ routine := .writeAll, step := 8, loc := { p := 40 } }] ∧
    (40 : Nat) ≠ (idle []).x.LASTPCT.toNat ∧
    (at_ { routine := .readAll, step := 9 } []).pc = [{ routine := .readAll, step := 9 }] ∧ 0 = (idle []).x.LASTPCT.toNat :=
  ⟨rfl, by decide, rfl, rfl⟩

theorem witness_RoundTripOnTheReferenceDevice :
    tiny.wf ∧ (idle []).RBUF.wf ∧ ({ idle [] with oracle := .device flashDevice } : State).oracle = .device flashDevice ∧
    flashDevice.flash.wf ∧ flashDevice.busy = 0 ∧ (10 : BitVec 32).toNat ≤ tiny.CAPACITY := by decide

/-! ### Errors -/

/-- One step for each of the six errors. -/
theorem witness_ErrorEndsTheOperationAtAnyDepth :
    errorAt tiny { routine := .readId, step := 4 } = some .transportError ∧
    errorAt tiny { routine := .readPage, step := 2, loc := { s := 0x01 } } = some .deviceBusy ∧
    errorAt tiny { routine := .writePage, step := 5, loc := { s := 0x00 } } = some .writeEnableNotSet ∧
    errorAt tiny { routine := .readPage, step := 7, loc := { n := 2, cnt := 1 } } = some .lengthMismatch ∧
    errorAt tiny { routine := .writeAll, step := 1, loc := { len := 11 } } = some .sizeExceeded ∧
    errorAt tiny { routine := .writePage, step := 0, loc := { n := 5 } } = some .illegalCommand := by decide

theorem witness_ErrorsAreRaisedNowhereElse :
    (at_ { routine := .readId, step := 4 } []).pc = [{ routine := .readId, step := 4 }] ∧
    ∃ t, step (at_ { routine := .readId, step := 4 } []) = .next t ∧
      t.trace = (at_ { routine := .readId, step := 4 } []).trace ++ [.done (.fail .transportError) none (some false)] :=
  ⟨rfl, _, rfl, rfl⟩

/-- `READ_ALL` of ten bytes fails in its second chunk: the ten are its range, and the rest is beyond it. -/
def failingRead : State :=
  { idle [] with
    x := { State.reset.x with DONE := 4, ADDR := 4, REMAIN := 6, TOTAL := 10 }
    pc := [{ routine := .readPage, step := 4, loc := { n := 4 } },
      { routine := .readAll, step := 5, loc := { len := 10, n := 4 } }] }

theorem witness_FailureKeepsTheRestOfRbuf :
    failingRead.operation = some { routine := .readAll, step := 5, loc := { len := 10, n := 4 } } ∧ failingRead.RBUF.wf ∧
    errorAt failingRead.cfg { routine := .readPage, step := 4, loc := { n := 4 } } = some .transportError ∧
    (∃ t, step failingRead = .next t) ∧
    Activation.rbufRange { routine := .readAll, step := 5, loc := { len := 10, n := 4 } } = 10 :=
  ⟨rfl, by decide, by decide, ⟨_, rfl⟩, by decide⟩

theorem witness_FailureKeepsTheRestOfRbuf_before :
    errorAt tiny { routine := .readAll, step := 1, loc := { len := 11 } } = some .sizeExceeded ∧
    ∃ t, step (at_ { routine := .readAll, step := 1, loc := { len := 11 } } []) = .next t := ⟨by decide, _, rfl⟩

/-! ### Invariants -/

/-- The deepest stack: `READ_STATUS` in `WRITE_PAGE` in `WRITE_ALL` in `PROGRAM_AND_VERIFY`, in the third chunk. -/
def deep : State :=
  { idle [.returned 1 true []] with
    x := { State.reset.x with ADDR := 8, DONE := 8, REMAIN := 2, TOTAL := 10 }
    pc := [{ routine := .readStatus, step := 1 }, { routine := .writePage, step := 4, loc := { a := 8, i := 8, n := 2 } },
      { routine := .writeAll, step := 5, loc := { len := 10, n := 2 } }, { routine := .programAndVerify, step := 2, loc := { len := 10 } }]
    trace := [.write [0x06] true true 1 true] }

theorem deep_controlSound : deep.controlSound := by
  simp [State.controlSound, deep, stackSound, Activation.sound, Activation.localsSound, firstStep, lastStep, Linked, callee, idle,
    tiny]

theorem deep_loopsSound : deep.loopsSound := by
  simp [State.loopsSound, deep, Activation.loopSound, chunkSteps, Regs.loopInvariant, chunkLength, idle, tiny, Cfg.standard]

theorem deep_armingSound : deep.armingSound :=
  ⟨fun _ => trivial, fun _ => ⟨fun h => absurd h (by decide), fun _ => ⟨1, [], rfl⟩⟩⟩

theorem deep_writesArmed : writesArmed deep.cfg deep.trace := by
  intro before after bytes csA csR n ok h hw
  rcases before with _ | ⟨a, before⟩
  · have hb : [0x06] = bytes := by injection h with h1 h2; injection h1
    subst hb
    rcases hw with h | ⟨a, p, h⟩ <;> cases h
  · injection h with h1 h2; simp at h2

theorem witness_StepKeepsTheControlStateSound : deep.controlSound ∧ ∃ t, step deep = .next t := ⟨deep_controlSound, _, rfl⟩

theorem witness_SoundControlStateNeverStops : deep.controlSound := deep_controlSound

theorem witness_StackIsAtMostFourDeep : deep.controlSound ∧ deep.pc.length = 4 := ⟨deep_controlSound, rfl⟩

theorem witness_StepKeepsTheLoopInvariants :
    deep.cfg.wf ∧ deep.controlSound ∧ deep.loopsSound ∧ ∃ t, step deep = .next t :=
  ⟨by decide, deep_controlSound, deep_loopsSound, _, rfl⟩

theorem witness_StepKeepsMemoriesCanonical : deep.memoriesCanonical ∧ ∃ t, step deep = .next t :=
  ⟨⟨by decide, by decide, trivial⟩, _, rfl⟩

theorem witness_StepMakesOnlyLawfulCalls : (∀ a ∈ deep.trace, a.lawful) ∧ ∃ t, step deep = .next t :=
  ⟨by simp only [deep, List.mem_singleton, forall_eq]; exact ⟨.wren, rfl, rfl, rfl⟩, _, rfl⟩

theorem witness_WriteClassFramesAreArmed :
    deep.controlSound ∧ deep.armingSound ∧ writesArmed deep.cfg deep.trace ∧ ∃ t, step deep = .next t :=
  ⟨deep_controlSound, deep_armingSound, deep_writesArmed, _, rfl⟩

theorem witness_EveryStep : ∃ t, step deep = .next t := ⟨_, rfl⟩

/-- A step that adds two actions. -/
theorem witness_TraceOnlyGrows :
    ∃ t, step (at_ { routine := .readPage, step := 9, loc := { out := [0x19] } } []) = .next t ∧
      t.trace = [.memWrite 0 [0x19], .done .ok none none] := ⟨_, rfl, rfl⟩

theorem witness_OnlyDoneWritesTheResultRegisters : deep.resetLine.head? ≠ some true ∧ ∃ t, step deep = .next t :=
  ⟨by decide, _, rfl⟩

theorem witness_WorkingRegistersHaveTheirWriters :
    (at_ { routine := .readStatus, step := 5, loc := { d := [0x02] } } []).pc ≠ [] ∧
    (at_ { routine := .readStatus, step := 5, loc := { d := [0x02] } } []).resetLine.head? ≠ some true ∧
    ∃ t, step (at_ { routine := .readStatus, step := 5, loc := { d := [0x02] } } []) = .next t ∧ t.x.STATUS ≠ (idle []).x.STATUS :=
  ⟨by decide, by decide, _, rfl, by decide⟩

theorem witness_BuffersAreWrittenByMemWriteOnly :
    (at_ { routine := .readId, step := 5, loc := { d := [0xC2, 0x20, 0x16] } } []).pc ≠ [] ∧
    ∃ t, step (at_ { routine := .readId, step := 5, loc := { d := [0xC2, 0x20, 0x16] } } []) = .next t ∧ t.RBUF ≠ (idle []).RBUF :=
  ⟨by decide, _, rfl, by decide⟩

/-- Two states that differ in the total, the percentage and the events. -/
theorem witness_ProgressTakesNoPartInControl :
    deep.withoutProgress =
      ({ deep with x := { deep.x with LASTPCT := 80, TOTAL := 11 }, trace := .emit (.progress 40) :: deep.trace } : State).withoutProgress ∧
    ∃ t, step deep = .next t := ⟨by decide, _, rfl⟩

end Sys2Proof.Tests
end

section
/-! What a step adds to the trace (R11), read off the inversion lemmas `Moves` and `Steps`. -/

namespace Sys2Proof

/-- R82: every byte sequence the decoder takes stands for a frame, never for a host operation. -/
theorem isFrame_of_decodeFrame {bytes : List Byte} {i : Instr} (h : decodeFrame bytes = .ok i) : i.isFrame = true := by
  unfold decodeFrame at h
  split at h
  case h_1 => cases h
  case h_2 => split at h <;> cases h <;> rfl

end Sys2Proof

namespace Sys2Proof.Machine

/-! ## At most one action -/

/-- R11: the trace of `t` is that of `s`, or it is that of `s` and one action more. -/
def AddsAtMostOneAction (s t : State) : Prop := t.trace = s.trace ∨ ∃ a, t.trace = s.trace ++ [a]

/-- R53: a transport write shows itself in the trace once it returns, and not before. -/
theorem xferWrite_addsAtMostOneAction (bytes : List Byte) (csA csR : Bool) (s : State) :
    AddsAtMostOneAction s (xferWrite bytes csA csR s) := by
  rcases xferWrite_cases bytes csA csR s with hw | ⟨cnt, ok, data, o, -, hw⟩ <;> rw [hw]
  · exact .inl rfl
  · exact .inr ⟨_, rfl⟩

/-- R80: a frame's meaning is one transport call. -/
theorem exec_decodedFrame_addsAtMostOneAction {bytes : List Byte} {i : Instr} {s t : State}
    (hd : decodeFrame bytes = .ok i) (he : exec i s = .next t) : AddsAtMostOneAction s t := by
  obtain ⟨sent, -, hx⟩ := exec_frame (isFrame_of_decodeFrame hd) s
  cases hx.symm.trans he
  exact xferWrite_addsAtMostOneAction ..

/-! ## The one step with two actions -/

/-- R134: `READ_PAGE` of the host is at its step 9 in `s`; in `t` its bytes are stored and it has completed. -/
def StoresPageAndEnds (s t : State) : Prop :=
  ∃ f, s.pc = [f] ∧ f.routine = .readPage ∧ f.step = 9 ∧
    t.trace = s.trace ++ [.memWrite 0 f.loc.out, .done .ok none none]

/-- R30: the move of a running activation adds at most one action, but for the end of the host's `READ_PAGE`. -/
theorem Moves.addsAtMostOneAction_or {f : Activation} {r : List Activation} {s t : State} (hp : s.pc = f :: r)
    (h : Moves f r s t) : AddsAtMostOneAction s t ∨ StoresPageAndEnds s t := by
  cases h with
  | waits | passes | builds | swaps | cuts | measures | ready | loops | silent | jumps | latches | starts | advances
  | toFF | blank | equal | calls | returns => exact .inl (.inl rfl)
  | receives | fails | delays | spins | reports | reads | stores | toEQ | ends | endsWithFlag =>
    exact .inl (.inr ⟨_, rfl⟩)
  | sends bytes i _ _ hd he => exact .inl (exec_decodedFrame_addsAtMostOneAction hd he)
  | endsPage hr hrt hk =>
    subst hr
    exact .inr ⟨f, hp, hrt, hk, by simp⟩

/-- The same of every step of the machine: reset, waiting and accepting add nothing, a rejection adds its `Done`. -/
theorem Steps.addsAtMostOneAction_or {s t : State} (h : Steps s t) : AddsAtMostOneAction s t ∨ StoresPageAndEnds s t := by
  cases h with
  | resets | idles | accepts => exact .inl (.inl rfl)
  | rejects => exact .inl (.inr ⟨_, rfl⟩)
  | runs l f r _ _ hp hm => exact Moves.addsAtMostOneAction_or (s := s.withResetLine l) hp hm

/-- Settles O44: every step adds at most one action, or is the step in which the host's `READ_PAGE` ends, which adds exactly its two. -/
theorem traceOnlyGrows : Obligations.TraceOnlyGrows := by
  unfold Obligations.TraceOnlyGrows
  intro s t h
  rcases (step_steps h).addsAtMostOneAction_or with (ht | ⟨a, ht⟩) | ⟨f, hp, hrt, hk, ht⟩
  · exact ⟨[], by simp [ht], by simp, by simp⟩
  · exact ⟨[a], ht, by simp, by simp⟩
  · exact ⟨_, ht, by simp, fun _ => ⟨f, hp, hrt, hk, rfl⟩⟩

end Sys2Proof.Machine
end

section
/-! What every step leaves alone, read off `Moves` and `Steps`: the host's side of the state (R20, R31, R52), the result registers
(R32), and the working registers of the routines that are not running (R28). -/

namespace Sys2Proof.Machine

/-! ## The host's side -/

theorem KeepsHostSide.refl (s : State) : KeepsHostSide s s := ⟨rfl, rfl, rfl, rfl⟩

/-- R53: a transport write leaves the host's side alone, whether it returns or not. -/
theorem xferWrite_keepsHostSide (bytes : List Byte) (csA csR : Bool) (s : State) :
    KeepsHostSide s (xferWrite bytes csA csR s) := by
  rcases xferWrite_cases bytes csA csR s with hw | ⟨cnt, ok, data, o, -, hw⟩ <;> rw [hw]
  · exact .refl s
  · exact ⟨rfl, rfl, rfl, rfl⟩

/-- R80: a decoded frame's meaning is one transport write with the chip-select flags of its shape. -/
theorem exec_decodedFrame {bytes : List Byte} {i : Instr} {s t : State} (hd : decodeFrame bytes = .ok i)
    (he : exec i s = .next t) : ∃ sent, t = xferWrite sent true (shapeA i) s := by
  obtain ⟨sent, -, hx⟩ := exec_frame (isFrame_of_decodeFrame hd) s
  rw [hx] at he
  exact ⟨sent, (Host.Outcome.next.inj he).symm⟩

/-- R20, R31, R52: no move of a running activation touches the host's side. -/
theorem Moves.keepsHostSide {f : Activation} {r : List Activation} {s t : State} (h : Moves f r s t) : KeepsHostSide s t := by
  cases h with
  | sends bytes i _ _ hd he =>
    obtain ⟨sent, rfl⟩ := exec_decodedFrame hd he
    exact xferWrite_keepsHostSide ..
  | _ => exact ⟨rfl, rfl, rfl, rfl⟩

/-- R20: no step writes the configuration. -/
theorem Steps.cfg {s t : State} (h : Steps s t) : t.cfg = s.cfg := by
  cases h with
  | resets | idles | rejects | accepts => rfl
  | runs l f r _ _ _ hm =>
    obtain ⟨hc, -⟩ := hm.keepsHostSide
    exact hc

/-- Settles O43: no step writes the configuration. -/
theorem configurationIsNeverWritten : Obligations.ConfigurationIsNeverWritten :=
  fun _ _ h => (step_steps h).cfg

/-! ## The result registers -/

/-- R32: the three result registers of `t` are those of `s`. -/
def KeepsResults (s t : State) : Prop := t.RESULT = s.RESULT ∧ t.VALUE = s.VALUE ∧ t.FLAG = s.FLAG

/-- R96: the step from `s` to `t` ends with `Done`: the stack is empty, the last action is `Done`, and `RESULT` holds its code. -/
def EndsWithDone (s t : State) : Prop :=
  t.pc = [] ∧ ∃ acts r v b, t.trace = s.trace ++ acts ++ [.done r v b] ∧ t.RESULT = r.code

theorem finish_endsWithDone (r : Result) (v : Option Byte) (b : Option Bool) (s : State) :
    EndsWithDone s (finish r v b s) := ⟨rfl, [], r, v, b, by simp, rfl⟩

theorem raise_endsWithDone (e : Error) (s : State) : EndsWithDone s (raise e s) :=
  finish_endsWithDone (.fail e) none (some false) (s.withRbuf (rbufAfterError e s))

theorem xferWrite_keepsResults (bytes : List Byte) (csA csR : Bool) (s : State) :
    KeepsResults s (xferWrite bytes csA csR s) := by
  rcases xferWrite_cases bytes csA csR s with hw | ⟨cnt, ok, data, o, -, hw⟩ <;> rw [hw] <;> exact ⟨rfl, rfl, rfl⟩

/-- R32: a move of a running activation leaves the result registers alone, or ends the operation with `Done`. -/
theorem Moves.keepsResults_or {f : Activation} {r : List Activation} {s t : State} (h : Moves f r s t) :
    KeepsResults s t ∨ EndsWithDone s t := by
  cases h with
  | sends bytes i _ _ hd he =>
    obtain ⟨sent, rfl⟩ := exec_decodedFrame hd he
    exact .inl (xferWrite_keepsResults ..)
  | fails e => exact .inr (raise_endsWithDone e s)
  | ends | endsWithFlag => exact .inr (finish_endsWithDone ..)
  | endsPage => exact .inr ⟨rfl, [.memWrite 0 f.loc.out], .ok, none, none, rfl, rfl⟩
  | _ => exact .inl ⟨rfl, rfl, rfl⟩

/-- Settles O45: where reset is not asserted, only a step that ends with `Done` writes a result register. -/
theorem onlyDoneWritesTheResultRegisters : Obligations.OnlyDoneWritesTheResultRegisters := by
  unfold Obligations.OnlyDoneWritesTheResultRegisters
  intro s t hr h
  cases step_steps h with
  | resets l hl => simp [hl] at hr
  | idles | accepts => exact .inl ⟨rfl, rfl, rfl⟩
  | rejects l c rest => exact .inr (raise_endsWithDone .illegalCommand ((s.withResetLine l).taken c rest))
  | runs l f r _ _ _ hm => exact Moves.keepsResults_or (s := s.withResetLine l) hm

/-! ## The working registers -/

/-- R28: a register of the chunk loop differs between `x` and `y`. -/
def Regs.loopDiffers (x y : Regs) : Prop :=
  y.ADDR ≠ x.ADDR ∨ y.REMAIN ≠ x.REMAIN ∨ y.TOTAL ≠ x.TOTAL ∨ y.DONE ≠ x.DONE ∨ y.LASTPCT ≠ x.LASTPCT

/-- R28: where a register of `y` differs from `x`, routine `c` is one that its row names. -/
def WritesOnlyItsOwn (c : Routine) (x y : Regs) : Prop :=
  (y.STATUS ≠ x.STATUS → c = .readStatus) ∧ (x.loopDiffers y → c = .writeAll ∨ c = .readAll) ∧
    (y.ALLFF ≠ x.ALLFF → c = .isEmpty ∨ c = .readAll) ∧ (y.EQ ≠ x.EQ → c = .programAndVerify ∨ c = .readAll)

theorem WritesOnlyItsOwn.of_eq (c : Routine) {x y : Regs} (h : y = x) : WritesOnlyItsOwn c x y := by
  simp [WritesOnlyItsOwn, Regs.loopDiffers, h]

/-- A chunk loop that writes neither `STATUS`, `ALLFF` nor `EQ` keeps to its own registers. -/
theorem WritesOnlyItsOwn.of_chunkLoop {c : Routine} {x y : Regs} (hc : c = .writeAll ∨ c = .readAll)
    (hs : y.STATUS = x.STATUS) (hf : y.ALLFF = x.ALLFF) (he : y.EQ = x.EQ) : WritesOnlyItsOwn c x y :=
  ⟨fun h => absurd hs h, fun _ => hc, fun h => absurd hf h, fun h => absurd he h⟩

theorem xferWrite_x (bytes : List Byte) (csA csR : Bool) (s : State) : (xferWrite bytes csA csR s).x = s.x := by
  rcases xferWrite_cases bytes csA csR s with hw | ⟨cnt, ok, data, o, -, hw⟩ <;> simp [hw]

/-- R28: a move of a running activation writes only registers whose row names its routine. -/
theorem Moves.writesOnlyItsOwn {f : Activation} {r : List Activation} {s t : State} (h : Moves f r s t) :
    WritesOnlyItsOwn f.routine s.x t.x := by
  cases h with
  | sends bytes i _ _ hd he =>
    obtain ⟨sent, rfl⟩ := exec_decodedFrame hd he
    exact .of_eq _ (xferWrite_x ..)
  | latches hrt => simp [WritesOnlyItsOwn, Regs.loopDiffers, hrt]
  | starts hrt => exact .of_chunkLoop hrt rfl rfl rfl
  | advances hrt => exact .of_chunkLoop (hrt.imp And.left And.left) rfl rfl rfl
  | reports hrt => exact .of_chunkLoop (hrt.imp And.left And.left) rfl rfl rfl
  | toFF hrt => simp [WritesOnlyItsOwn, Regs.loopDiffers, hrt]
  | toEQ hrt => simp [WritesOnlyItsOwn, Regs.loopDiffers, hrt]
  | blank hrt => simp [WritesOnlyItsOwn, Regs.loopDiffers, hrt]
  | equal hrt => simp [WritesOnlyItsOwn, Regs.loopDiffers, hrt]
  | _ => exact .of_eq _ rfl

/-- A step on which reset is not asserted, with an activation running, is a move of that activation. -/
theorem moves_of_step {s t : State} {f : Activation} {r : List Activation} (hp : s.pc = f :: r)
    (hr : s.resetLine.head? ≠ some true) (h : step s = .next t) : ∃ l, Moves f r (s.withResetLine l) t := by
  cases step_steps h with
  | resets l hl => simp [hl] at hr
  | idles l _ hq | rejects l _ _ _ hq | accepts l _ _ _ _ _ hq => simp [hq] at hp
  | runs l f' r' _ _ hq hm =>
    obtain ⟨rfl, rfl⟩ := List.cons.inj (hq.symm.trans hp)
    exact ⟨l, hm⟩

/-- Settles O46: each working register is written only by the routines its row names. -/
theorem workingRegistersHaveTheirWriters : Obligations.WorkingRegistersHaveTheirWriters := by
  unfold Obligations.WorkingRegistersHaveTheirWriters
  intro s t f r hp hr h
  obtain ⟨l, hm⟩ := moves_of_step hp hr h
  exact hm.writesOnlyItsOwn

end Sys2Proof.Machine
end

section
/-! The control stack (R30, R168): the call graph bounds its depth, and every move keeps it one that the pseudocode has. -/

namespace Sys2Proof.Machine

/-! ## The call graph -/

/-- R168: how far a routine stands above the ones that call nothing. -/
def Routine.level : Routine → Nat
  | .readStatus | .writeEnable | .writeDisable | .readId | .reverseBits => 0
  | .bulkErase | .writePage | .readPage => 1
  | .writeAll | .readAll => 2
  | .isEmpty | .programAndVerify => 3

theorem Routine.level_le_three (c : Routine) : c.level ≤ 3 := by cases c <;> decide

/-- R168: a call goes down in level, so the call graph has no cycle. -/
theorem level_of_callee {c d : Routine} {k : Nat} (h : callee c k = some d) : d.level < c.level := by
  unfold callee at h
  split at h <;> cases h <;> decide

/-- R162, R163: whether the routine is one of the two chunk loops, the writers of `ADDR` and `DONE`. -/
def Routine.isChunkLoop : Routine → Bool
  | .writeAll | .readAll => true
  | .readStatus | .writeEnable | .writeDisable | .readId | .bulkErase | .writePage => false
  | .readPage | .reverseBits | .isEmpty | .programAndVerify => false

theorem isChunkLoop_iff (c : Routine) : c.isChunkLoop = true ↔ c = .writeAll ∨ c = .readAll := by
  cases c <;> simp [Routine.isChunkLoop]

theorem level_of_isChunkLoop {c : Routine} (h : c.isChunkLoop = true) : c.level = 2 := by
  rcases (isChunkLoop_iff c).1 h with rfl | rfl <;> rfl

/-- R162: `WRITE_ALL` calls `WRITE_PAGE` in its step 5 and nothing else. -/
theorem callee_writeAll {k : Nat} {c : Routine} (h : callee .writeAll k = some c) : k = 5 ∧ c = .writePage := by
  unfold callee at h
  split at h <;> simp_all

/-- R163: `READ_ALL` calls `READ_PAGE` in its step 5 and nothing else. -/
theorem callee_readAll {k : Nat} {c : Routine} (h : callee .readAll k = some c) : k = 5 ∧ c = .readPage := by
  unfold callee at h
  split at h <;> simp_all

/-- R164: `IS_EMPTY` calls `READ_ALL` in its step 2 and nothing else. -/
theorem callee_isEmpty {k : Nat} {c : Routine} (h : callee .isEmpty k = some c) : k = 2 ∧ c = .readAll := by
  unfold callee at h
  split at h <;> simp_all

/-- Every routine has a step 1, where a call begins it. -/
theorem firstStep_le_one (c : Routine) : firstStep c ≤ 1 := by cases c <;> decide

theorem one_le_lastStep (c : Routine) : 1 ≤ lastStep c := by cases c <;> decide

/-! ## A sound stack, one activation at a time -/

/-- A sound stack is a sound activation, linked to its caller where it has one, on top of a sound stack. -/
theorem stackSound_cons {s : State} {f : Activation} {r : List Activation} :
    stackSound s (f :: r) ↔ f.sound s ∧ (∀ g ∈ r.head?, Linked s g f) ∧ stackSound s r := by
  cases r <;> simp [stackSound]

/-- R168: below an activation there are at most as many others as there are levels above its own. -/
theorem length_add_level_le {s : State} {f : Activation} {r : List Activation} (h : stackSound s (f :: r)) :
    r.length + f.routine.level ≤ 3 := by
  induction r generalizing f with
  | nil => simpa using f.routine.level_le_three
  | cons g r ih =>
    obtain ⟨-, ⟨hcall, -⟩, hr⟩ := h
    have hlt := level_of_callee hcall
    have hle := ih hr
    simp only [List.length_cons]
    omega

/-- Settles O37: each activation of a sound stack stands above the one it runs for in the call graph, which has four levels. -/
theorem stackIsAtMostFourDeep : Obligations.StackIsAtMostFourDeep := by
  unfold Obligations.StackIsAtMostFourDeep
  intro s h
  rw [State.controlSound] at h
  cases hp : s.pc with
  | nil => simp
  | cons f r =>
    rw [hp] at h
    have hle := length_add_level_le h
    simp only [List.length_cons]
    omega

/-- R168: below a chunk loop there is no other. -/
theorem not_isChunkLoop_below {s : State} {f : Activation} {r : List Activation} (h : stackSound s (f :: r))
    (hf : f.routine.isChunkLoop = true) : ∀ g ∈ r, g.routine.isChunkLoop = false := by
  have hlevel := level_of_isChunkLoop hf
  have hle := length_add_level_le h
  match r, h with
  | [], _ => simp
  | [g], ⟨_, ⟨hcall, _⟩, _⟩ =>
    have hlt := level_of_callee hcall
    intro g' hg'
    rw [List.mem_singleton.1 hg', Bool.eq_false_iff]
    intro hg
    have := level_of_isChunkLoop hg
    omega
  | _ :: _ :: _, _ =>
    simp only [List.length_cons] at hle
    omega

/-! ## What the soundness of a stack depends on -/

/-- What the soundness of an activation depends on: the configuration, and the bytes `WBUF` shows during the operation. -/
def SameOperation (s t : State) : Prop := t.cfg = s.cfg ∧ t.WBUF = s.WBUF ∧ t.draws = s.draws

theorem SameOperation.sound {s t : State} (h : SameOperation s t) {f : Activation} (hf : f.sound s) : f.sound t := by
  obtain ⟨hc, hw, hd⟩ := h
  simpa only [Activation.sound, Activation.localsSound, wbufBytes, hc, hw, hd] using hf

/-- The chunk in hand, by its address and its index. -/
def SameChunk (s t : State) : Prop := t.x.ADDR = s.x.ADDR ∧ t.x.DONE = s.x.DONE

/-- A callee stays linked to its caller: where the caller is a chunk loop, as long as the chunk is the same. -/
theorem Linked.of_sameOperation {s t : State} {g f : Activation} (h : SameOperation s t)
    (hx : SameChunk s t ∨ g.routine.isChunkLoop = false) (hl : Linked s g f) : Linked t g f := by
  obtain ⟨hc, -, -⟩ := h
  obtain ⟨hcall, hargs⟩ := hl
  refine ⟨hcall, ?_⟩
  rcases hx with ⟨ha, hd⟩ | hg
  · simpa only [hc, ha, hd] using hargs
  · cases hr : g.routine <;> simp_all [Routine.isChunkLoop]

/-- A stack stays sound: where it holds a chunk loop, as long as the chunk is the same. -/
theorem stackSound_of_sameOperation {s t : State} (h : SameOperation s t) {r : List Activation}
    (hx : SameChunk s t ∨ ∀ g ∈ r, g.routine.isChunkLoop = false) (hr : stackSound s r) : stackSound t r := by
  induction r with
  | nil => trivial
  | cons f r ih =>
    obtain ⟨hf, hl, hr⟩ := stackSound_cons.1 hr
    refine stackSound_cons.2 ⟨h.sound hf, fun g hg => ?_, ih (hx.imp_right fun hx g hg => hx g (.tail _ hg)) hr⟩
    exact (hl g hg).of_sameOperation h (hx.imp_right fun hx => hx g (.tail _ (List.mem_of_mem_head? hg)))

/-! ## An activation that goes on -/

/-- `f'` is the activation `f` at another of its steps: the same routine with the same parameters. The length `n` of a chunk loop is
none of its parameters. -/
structure Continues (f f' : Activation) : Prop where
  routine : f'.routine = f.routine
  a : f'.loc.a = f.loc.a
  i : f'.loc.i = f.loc.i
  len : f'.loc.len = f.loc.len
  sink : f'.loc.sink = f.loc.sink
  n : f.routine.isChunkLoop = false → f'.loc.n = f.loc.n
  step : 1 ≤ f.step → 1 ≤ f'.step

/-- An activation that goes on stays linked to its caller. -/
theorem Continues.linked {s : State} {g f f' : Activation} (h : Continues f f') (hl : Linked s g f) : Linked s g f' := by
  obtain ⟨hrt, ha, hi, hlen, hsink, hn, hstep⟩ := h
  obtain ⟨hcall, hargs⟩ := hl
  refine ⟨hrt ▸ hcall, ?_⟩
  cases hg : g.routine with
  | writeAll =>
    rw [hg] at hcall hargs
    obtain ⟨-, hf⟩ := callee_writeAll hcall
    obtain ⟨h1, h2, h3, h4⟩ := hargs
    exact ⟨ha.trans h1, hi.trans h2, (hn (by rw [hf]; rfl)).trans h3, hstep h4⟩
  | readAll =>
    rw [hg] at hcall hargs
    obtain ⟨-, hf⟩ := callee_readAll hcall
    obtain ⟨h1, h2, h3⟩ := hargs
    exact ⟨ha.trans h1, (hn (by rw [hf]; rfl)).trans h2, hstep h3⟩
  | isEmpty =>
    rw [hg] at hargs
    exact ⟨hlen.trans hargs.1, hsink.trans hargs.2⟩
  | programAndVerify =>
    rw [hg] at hargs
    obtain ⟨h1, h2⟩ := hargs
    exact ⟨fun h => hlen.trans (h1 (hrt ▸ h)), fun h => ⟨hlen.trans (h2 (hrt ▸ h)).1, hsink.trans (h2 (hrt ▸ h)).2⟩⟩
  | _ => trivial

theorem Continues.refl (f : Activation) : Continues f f := ⟨rfl, rfl, rfl, rfl, rfl, fun _ => rfl, id⟩

/-- The next step of an activation whose parameters are kept. -/
theorem continues_next {f : Activation} {l : Locals} (ha : l.a = f.loc.a) (hi : l.i = f.loc.i) (hlen : l.len = f.loc.len)
    (hsink : l.sink = f.loc.sink) (hn : f.routine.isChunkLoop = false → l.n = f.loc.n) : Continues f (f.next l) :=
  ⟨rfl, ha, hi, hlen, hsink, hn, fun _ => Nat.succ_pos _⟩

/-- R30: a caller goes on after its call with the parameters it has. -/
theorem continues_resume (g : Activation) (v : Returned) : Continues g (g.resume v) := by
  cases v <;> exact ⟨rfl, rfl, rfl, rfl, rfl, fun _ => rfl, fun _ => Nat.succ_pos _⟩

/-! ## Sound local values from one step to the next -/

/-- The steps that give a local value the bound or the form it is held to from the next step on: the length check of a page
operation, the read phases, the chunk and the frame of `WRITE_PAGE`, the un-swapping of `READ_PAGE`, the size check, the cut of a
chunk, and the chunk `READ_ALL` gets from its call. -/
def boundSteps : List (Routine × Nat) :=
  [(.readStatus, 3), (.readId, 3), (.writePage, 0), (.writePage, 6), (.writePage, 7), (.readPage, 0), (.readPage, 5),
    (.readPage, 8), (.writeAll, 1), (.writeAll, 4), (.readAll, 1), (.readAll, 4), (.readAll, 5)]

/-- Whether step `k` of a routine is followed by another and is none of `boundSteps`. -/
def plainStep (c : Routine) (k : Nat) : Bool := decide (k < lastStep c) && !boundSteps.contains (c, k)

/-- A plain step keeps an activation sound, whatever it makes of the local values that are held to nothing after a plain step. -/
theorem sound_next_of_plainStep {s : State} {f : Activation} (h : f.sound s) (hk : plainStep f.routine f.step = true)
    (b : Byte) (cnt : Nat) (ok : Bool) (out : List Byte) (p : Nat) :
    (f.next { f.loc with s := b, cnt := cnt, ok := ok, out := out, p := p }).sound s := by
  obtain ⟨c, k, l⟩ := f
  obtain ⟨hfirst, -, hloc⟩ := h
  simp only [plainStep, boundSteps, Bool.and_eq_true, decide_eq_true_eq, Bool.not_eq_true'] at hk
  obtain ⟨hlast, hbound⟩ := hk
  refine ⟨Nat.le_succ_of_le hfirst, hlast, ?_⟩
  -- Each bound is asked for from the step after its bound step on, so a plain step comes under none that did not hold before.
  cases c <;> simp [Activation.localsSound, Activation.next, lastStep] at hlast hbound hloc ⊢ <;> grind

end Sys2Proof.Machine
end

section
/-! Every step keeps the control state sound (R30, R65, R84, R168): a move ends the operation, goes on in the running routine, calls
another or returns to the caller, and each of the four keeps the stack sound. -/

namespace Sys2Proof.Machine

/-! ## The four ways a move changes the stack -/

/-- What a move of `f`, on top of `r`, makes of the control stack. -/
inductive StackMove (f : Activation) (r : List Activation) (s t : State) : Prop
  /-- The operation is over. -/
  | ends : t.pc = [] → StackMove f r s t
  /-- The running routine goes on, at a step whose local values are sound. -/
  | goesOn (f' : Activation) : t.pc = f' :: r → t.draws = s.draws → Continues f f' → f'.sound s → StackMove f r s t
  /-- The running routine calls another. -/
  | calls (c : Routine) (l : Locals) : t = s.withPc (⟨c, 1, l⟩ :: f :: r) → (⟨c, 1, l⟩ : Activation).sound s →
      Linked s f ⟨c, 1, l⟩ → StackMove f r s t
  /-- The running routine returns to its caller. -/
  | returns (g : Activation) (r' : List Activation) (v : Returned) : r = g :: r' → t = s.withPc (g.resume v :: r') →
      (g.resume v).sound s → StackMove f r s t

/-- A plain step that changes only the machine, or at most the count, the result and the percentage of `f`, goes on. -/
theorem StackMove.of_plainStep {f : Activation} {r : List Activation} {s t : State} (hf : f.sound s)
    (hk : plainStep f.routine f.step = true) (hd : t.draws = s.draws) (cnt : Nat) (ok : Bool) (p : Nat)
    (hp : t.pc = f.next { f.loc with cnt := cnt, ok := ok, p := p } :: r) : StackMove f r s t :=
  .goesOn _ hp hd (continues_next rfl rfl rfl rfl fun _ => rfl) (sound_next_of_plainStep hf hk f.loc.s cnt ok f.loc.out p)

/-- A step after which a local value is held to more goes on where the new local values are as they are held to be. -/
theorem StackMove.of_boundStep {f : Activation} {r : List Activation} {s t : State} (l : Locals) (hp : t.pc = f.next l :: r)
    (hd : t.draws = s.draws) (hc : Continues f (f.next l)) (hlo : firstStep f.routine ≤ f.step)
    (hhi : f.step < lastStep f.routine) (hl : (f.next l).localsSound s) : StackMove f r s t :=
  .goesOn _ hp hd hc ⟨Nat.le_succ_of_le hlo, hhi, hl⟩

/-! ## Each move is one of the four -/

/-- R82: each frame is sent by a plain step. -/
theorem plainStep_of_outgoing {f : Activation} {bytes : List Byte} (h : f.outgoing = some bytes) :
    plainStep f.routine f.step = true := by
  unfold Activation.outgoing at h
  split at h
  case h_8 => cases h
  all_goals simp only [*]; rfl

/-- R53: a frame is sent, and the routine goes on once the call returns. -/
theorem stackMove_of_xferWrite {f : Activation} {r : List Activation} {s : State} (hp : s.pc = f :: r) (hf : f.sound s)
    (hk : plainStep f.routine f.step = true) (bytes : List Byte) (csA csR : Bool) :
    StackMove f r s (xferWrite bytes csA csR s) := by
  rcases xferWrite_cases bytes csA csR s with hw | ⟨cnt, ok, data, o, -, hw⟩
  · exact .goesOn f (by rw [hw, hp]) (by rw [hw]) (.refl f) hf
  · exact .of_plainStep hf hk (by rw [hw]; rfl) cnt ok f.loc.p (by simp [hw, hp, Activation.next])

/-- R54: a read phase leaves as many bytes as were asked for. -/
theorem stackMove_of_receives {f : Activation} {r : List Activation} {s t : State} {n cnt : Nat} {ok : Bool} {d : List Byte}
    (hf : f.sound s) (h : f.routine = .readStatus ∧ f.step = 3 ∧ n = 1 ∨ f.routine = .readId ∧ f.step = 3 ∧ n = Cfg.ID_LEN ∨
      f.routine = .readPage ∧ f.step = 5 ∧ n = f.loc.n) (hn : d.length = n) (hd : t.draws = s.draws)
    (hp : t.pc = f.next { f.loc with d := d, cnt := cnt, ok := ok } :: r) : StackMove f r s t := by
  obtain ⟨hlo, -, hl⟩ := hf
  refine .of_boundStep _ hp hd (continues_next rfl rfl rfl rfl fun _ => rfl) hlo ?_ ?_
  · rcases h with ⟨hrt, hk, -⟩ | ⟨hrt, hk, -⟩ | ⟨hrt, hk, -⟩ <;> rw [hrt, hk] <;> decide
  · rcases h with ⟨hrt, hk, rfl⟩ | ⟨hrt, hk, rfl⟩ | ⟨hrt, hk, rfl⟩ <;>
      simp_all [Activation.localsSound, Activation.next]

/-- R65, R161: a check that passes holds the length it checks to its bound; every other check is a plain step. -/
theorem stackMove_of_passes {f : Activation} {r : List Activation} {s : State} (hf : f.sound s)
    (he : errorAt s.cfg f = none) (h : (f.routine, f.step) ∈ checkSteps) :
    StackMove f r s (s.withPc (f.next f.loc :: r)) := by
  have hsplit : ∀ x ∈ checkSteps, plainStep x.1 x.2 = true ∨
      x ∈ [(Routine.writePage, 0), (.readPage, 0), (.writeAll, 1), (.readAll, 1)] := by decide
  rcases hsplit _ h with hk | hk
  · exact .of_plainStep hf hk rfl _ _ _ rfl
  · obtain ⟨hlo, -, hl⟩ := hf
    refine .of_boundStep _ rfl rfl (continues_next rfl rfl rfl rfl fun _ => rfl) hlo ?_ ?_
    all_goals
      simp only [List.mem_cons, Prod.mk.injEq, List.not_mem_nil, or_false] at hk
      rcases hk with ⟨hrt, hk⟩ | ⟨hrt, hk⟩ | ⟨hrt, hk⟩ | ⟨hrt, hk⟩ <;>
        simp_all [lastStep, errorAt, Activation.localsSound, Activation.next]

/-- R168: only `WRITE_ALL` calls `WRITE_PAGE`, and only `READ_ALL` calls `READ_PAGE`, each in its step 5. -/
theorem caller_of_page {c : Routine} {k : Nat} :
    (callee c k = some .writePage → c = .writeAll ∧ k = 5) ∧ (callee c k = some .readPage → c = .readAll ∧ k = 5) := by
  constructor <;> intro h <;> unfold callee at h <;> split at h <;> simp_all

/-- R65: a routine is called with sound local values; the pages of a chunk loop are no longer than a packet. -/
theorem sound_of_call {f : Activation} {s : State} {c : Routine} {l : Locals} (hf : f.sound s)
    (hcall : callee f.routine f.step = some c) (hn : c = .writePage ∨ c = .readPage → l.n = f.loc.n) :
    (⟨c, 1, l⟩ : Activation).sound s := by
  obtain ⟨-, -, hl⟩ := hf
  obtain ⟨hw, hr⟩ := caller_of_page (c := f.routine) (k := f.step)
  refine ⟨firstStep_le_one c, one_le_lastStep c, ?_⟩
  cases c with
  | writePage =>
    obtain ⟨hrt, hk⟩ := hw hcall
    simp_all [Activation.localsSound]
  | readPage =>
    obtain ⟨hrt, hk⟩ := hr hcall
    simp_all [Activation.localsSound]
  | _ => simp [Activation.localsSound]

/-- R168, R162 to R165: a routine is called with the parameters that link its activation to its caller. -/
theorem stackMove_of_calls {f : Activation} {r : List Activation} {s : State} {c : Routine} {l : Locals} (hf : f.sound s)
    (hcall : callee f.routine f.step = some c)
    (hl : (c, l) ∈ ([(.readStatus, {}), (.writeEnable, {}), (.bulkErase, {}),
      (.writePage, writePageArgs s.x.ADDR s.x.DONE.toNat f.loc.n), (.readPage, readPageArgs s.x.ADDR f.loc.n),
      (.readAll, if f.routine = .isEmpty then readAllArgs s.cfg.CAPACITY .toFF else readAllArgs f.loc.len .toEQ),
      (.writeAll, { len := f.loc.len })] : List (Routine × Locals))) :
    StackMove f r s (s.withPc (⟨c, 1, l⟩ :: f :: r)) := by
  simp only [List.mem_cons, Prod.mk.injEq, List.not_mem_nil, or_false] at hl
  refine .calls c l rfl (sound_of_call hf hcall ?_) ⟨hcall, ?_⟩
  · rintro (rfl | rfl) <;> simp_all [writePageArgs, readPageArgs]
  · cases hrt : f.routine with
    | writeAll =>
      obtain ⟨-, rfl⟩ := callee_writeAll (hrt ▸ hcall)
      simp_all [writePageArgs]
    | readAll =>
      obtain ⟨-, rfl⟩ := callee_readAll (hrt ▸ hcall)
      simp_all [readPageArgs]
    | isEmpty =>
      obtain ⟨-, rfl⟩ := callee_isEmpty (hrt ▸ hcall)
      simp_all [readAllArgs]
    | programAndVerify => constructor <;> intro hc <;> simp_all [readAllArgs]
    | _ => trivial

/-- R168: every call is made in a plain step, but that of `READ_ALL`, whose answer is held to the length asked for. -/
theorem plainStep_of_callee {c d : Routine} {k : Nat} (h : callee c k = some d) :
    plainStep c k = true ∨ c = .readAll ∧ k = 5 := by
  unfold callee at h
  split at h <;> simp_all <;> decide

/-- R30, R163: a return keeps the caller sound; `READ_ALL` gets as many bytes as it asked for. -/
theorem stackMove_of_returns {f g : Activation} {r : List Activation} {s : State} {v : Returned} (hg : g.sound s)
    (hl : Linked s g f) (hv : f.routine = .readPage → ∃ bs, v = .bytes bs ∧ bs.length = f.loc.n) :
    StackMove f (g :: r) s (s.withPc (g.resume v :: r)) := by
  obtain ⟨hcall, hargs⟩ := hl
  refine .returns g r v rfl rfl ?_
  rcases plainStep_of_callee hcall with hk | ⟨hrt, hk⟩
  · cases v with
    | void => exact sound_next_of_plainStep hg hk g.loc.s g.loc.cnt g.loc.ok g.loc.out g.loc.p
    | byte b => exact sound_next_of_plainStep hg hk b g.loc.cnt g.loc.ok g.loc.out g.loc.p
    | bytes bs => exact sound_next_of_plainStep hg hk g.loc.s g.loc.cnt g.loc.ok bs g.loc.p
  · rw [hrt] at hcall hargs
    obtain ⟨-, hfrt⟩ := callee_readAll hcall
    obtain ⟨bs, rfl, hbs⟩ := hv hfrt
    obtain ⟨-, hn, -⟩ := hargs
    obtain ⟨-, -, hloc⟩ := hg
    simp_all [Activation.sound, Activation.localsSound, Activation.resume, firstStep, lastStep]

/-- R84: `WRITE_PAGE` step 7 builds the frame of the chunk it has read. -/
theorem stackMove_of_builds {f : Activation} {r : List Activation} {s : State} (hf : f.sound s) (hrt : f.routine = .writePage)
    (hk : f.step = 7) :
    StackMove f r s (s.withPc (f.next { f.loc with frame := programFrame s.cfg f.loc.a f.loc.chunk } :: r)) := by
  obtain ⟨hlo, -, hl⟩ := hf
  refine .of_boundStep _ rfl rfl (continues_next rfl rfl rfl rfl fun _ => rfl) hlo (by rw [hrt, hk]; decide) ?_
  simp_all [Activation.localsSound, Activation.next]

/-- R58: `WRITE_PAGE` step 6 reads its chunk from `WBUF`. -/
theorem stackMove_of_reads {f : Activation} {r : List Activation} {s : State} (hf : f.sound s) (hrt : f.routine = .writePage)
    (hk : f.step = 6) :
    StackMove f r s ((s.log (.memRead f.loc.i f.loc.n)).withPc
      (f.next { f.loc with chunk := wbufBytes f.loc.i f.loc.n s } :: r)) := by
  obtain ⟨hlo, -, hl⟩ := hf
  refine .of_boundStep _ rfl rfl (continues_next rfl rfl rfl rfl fun _ => rfl) hlo (by rw [hrt, hk]; decide) ?_
  simp_all [Activation.localsSound, Activation.next]

/-- R134: `READ_PAGE` step 8 un-swaps every byte it has received and no other. -/
theorem stackMove_of_swaps {f : Activation} {r : List Activation} {s : State} (hf : f.sound s) (hrt : f.routine = .readPage)
    (hk : f.step = 8) : StackMove f r s (s.withPc (f.next { f.loc with out := f.loc.d.map (swz s.cfg) } :: r)) := by
  obtain ⟨hlo, -, hl⟩ := hf
  refine .of_boundStep _ rfl rfl (continues_next rfl rfl rfl rfl fun _ => rfl) hlo (by rw [hrt, hk]; decide) ?_
  simp_all [Activation.localsSound, Activation.next]

/-- R160: a chunk is no longer than a packet. -/
theorem stackMove_of_cuts {f : Activation} {r : List Activation} {s : State} (hf : f.sound s)
    (hrt : f.routine = .writeAll ∨ f.routine = .readAll) (hk : f.step = 4) :
    StackMove f r s (s.withPc (f.next { f.loc with n := chunkLength s.cfg s.x.REMAIN } :: r)) := by
  obtain ⟨hlo, -, hl⟩ := hf
  have hloop : f.routine.isChunkLoop = true := (isChunkLoop_iff _).2 hrt
  have hn : chunkLength s.cfg s.x.REMAIN ≤ s.cfg.PACKET_SIZE := Nat.min_le_right ..
  refine .of_boundStep _ rfl rfl (continues_next rfl rfl rfl rfl fun h => by simp [hloop] at h) hlo ?_ ?_
  · rcases hrt with hrt | hrt <;> rw [hrt, hk] <;> decide
  · rcases hrt with hrt | hrt <;> simp_all [Activation.localsSound, Activation.next]

/-- R30: the wait loops and the chunk loops go back to a step that asks nothing more of the local values. -/
theorem stackMove_of_jumps {f : Activation} {r : List Activation} {s : State} {k : Nat} (hf : f.sound s)
    (h : f.routine = .bulkErase ∧ f.step = 11 ∧ k = 8 ∧ busy f.loc.s = true ∨
      f.routine = .writePage ∧ f.step = 13 ∧ k = 12 ∧ busy f.loc.s = true ∨
      f.routine = .writeAll ∧ f.step = 9 ∧ k = 3 ∨ f.routine = .readAll ∧ f.step = 10 ∧ k = 3) :
    StackMove f r s (s.withPc ({ f with step := k } :: r)) := by
  obtain ⟨-, -, hl⟩ := hf
  have hk : 1 ≤ k := by omega
  refine .goesOn { f with step := k } rfl rfl ⟨rfl, rfl, rfl, rfl, rfl, fun _ => rfl, fun _ => hk⟩ ?_
  rcases h with ⟨hrt, hk, rfl, -⟩ | ⟨hrt, hk, rfl, -⟩ | ⟨hrt, hk, rfl⟩ | ⟨hrt, hk, rfl⟩ <;>
    simp_all [Activation.sound, Activation.localsSound, firstStep, lastStep]

theorem plainStep_of_eq {f : Activation} {c : Routine} {k : Nat} (hc : f.routine = c) (hk : f.step = k)
    (h : plainStep c k = true) : plainStep f.routine f.step = true := by
  rwa [hc, hk]

/-- A step that the two chunk loops, or the two wait loops, have under different numbers. -/
theorem plainStep_of_either {f : Activation} {c d : Routine} {j k : Nat}
    (h : f.routine = c ∧ f.step = j ∨ f.routine = d ∧ f.step = k) (hc : plainStep c j = true) (hd : plainStep d k = true) :
    plainStep f.routine f.step = true :=
  h.elim (fun h => plainStep_of_eq h.1 h.2 hc) (fun h => plainStep_of_eq h.1 h.2 hd)

/-- R30: every move of a sound stack's running activation is one of the four. -/
theorem Moves.stackMove {f : Activation} {r : List Activation} {s t : State} (hp : s.pc = f :: r)
    (hs : stackSound s (f :: r)) (h : Moves f r s t) : StackMove f r s t := by
  obtain ⟨hf, hlink, hr⟩ := stackSound_cons.1 hs
  have goesOn {t' : State} (hk : plainStep f.routine f.step = true) (hd : t'.draws = s.draws) (p : Nat)
      (hp' : t'.pc = f.next { f.loc with p := p } :: r) : StackMove f r s t' := .of_plainStep hf hk hd _ _ p hp'
  cases h with
  | waits => exact .goesOn f hp rfl (.refl f) hf
  | sends bytes i _ ho hd he =>
    obtain ⟨sent, rfl⟩ := exec_decodedFrame hd he
    exact stackMove_of_xferWrite hp hf (plainStep_of_outgoing ho) ..
  | receives n cnt ok o data hrt => exact stackMove_of_receives hf hrt (readData_length ..) rfl rfl
  | fails | ends | endsPage | endsWithFlag => exact .ends rfl
  | passes he hk => exact stackMove_of_passes hf he hk
  | builds hrt hk => exact stackMove_of_builds hf hrt hk
  | swaps hrt hk => exact stackMove_of_swaps hf hrt hk
  | reads hrt hk => exact stackMove_of_reads hf hrt hk
  | cuts hrt hk => exact stackMove_of_cuts hf hrt hk
  | jumps k h => exact stackMove_of_jumps hf h
  | calls c l hcall hl => exact stackMove_of_calls hf hcall hl
  | returns v g r' hrr hv =>
    subst hrr
    obtain ⟨hg, -⟩ := stackSound_cons.1 hr
    refine stackMove_of_returns hg (hlink g rfl) fun hrt => ?_
    obtain ⟨-, -, hl⟩ := hf
    simp_all [Activation.localsSound]
  | measures h | silent h | reports h | ready h | advances h => exact goesOn (plainStep_of_either h rfl rfl) rfl _ rfl
  | delays k h =>
    exact goesOn (plainStep_of_either (h.imp (fun h => ⟨h.1, h.2.1⟩) (fun h => ⟨h.1, h.2.1⟩)) rfl rfl) rfl _ rfl
  | stores i v h =>
    exact goesOn (plainStep_of_either (h.imp (fun h => ⟨h.1, h.2.1⟩) (fun h => ⟨h.1, h.2.1⟩)) rfl rfl) rfl _ rfl
  | loops hrt hk | starts hrt hk =>
    exact goesOn (plainStep_of_either (hrt.imp (⟨·, hk⟩) (⟨·, hk⟩)) rfl rfl) rfl _ rfl
  | spins hrt hk | latches hrt hk | toFF hrt hk | toEQ hrt hk | blank hrt hk | equal hrt hk =>
    exact goesOn (plainStep_of_eq hrt hk rfl) rfl _ rfl

/-! ## The stack after a move -/

/-- A move that does not end the operation leaves the configuration and what `WBUF` shows. -/
theorem Moves.sameOperation {f : Activation} {r : List Activation} {s t : State} (h : Moves f r s t)
    (hd : t.draws = s.draws) : SameOperation s t := by
  obtain ⟨hc, hw, -, -⟩ := h.keepsHostSide
  exact ⟨hc, hw, hd⟩

/-- The four registers that R37 relates are the same. -/
def SameLoopRegs (x y : Regs) : Prop := y.ADDR = x.ADDR ∧ y.REMAIN = x.REMAIN ∧ y.TOTAL = x.TOTAL ∧ y.DONE = x.DONE

theorem SameLoopRegs.refl (x : Regs) : SameLoopRegs x x := ⟨rfl, rfl, rfl, rfl⟩

/-- R28: a move of a routine that is no chunk loop leaves the loop's registers. -/
theorem Moves.sameLoopRegs {f : Activation} {r : List Activation} {s t : State} (h : Moves f r s t)
    (hf : f.routine.isChunkLoop = false) : SameLoopRegs s.x t.x := by
  obtain ⟨-, hloop, -, -⟩ := h.writesOnlyItsOwn
  have hsame : ¬s.x.loopDiffers t.x := fun hx => by simp [(isChunkLoop_iff _).2 (hloop hx)] at hf
  simp only [Regs.loopDiffers, not_or, not_not] at hsame
  obtain ⟨ha, hr, ht, hd, -⟩ := hsame
  exact ⟨ha, hr, ht, hd⟩

/-- R28: so does it leave the chunk in hand. -/
theorem Moves.sameChunk {f : Activation} {r : List Activation} {s t : State} (h : Moves f r s t)
    (hf : f.routine.isChunkLoop = false) : SameChunk s t := by
  obtain ⟨ha, -, -, hd⟩ := h.sameLoopRegs hf
  exact ⟨ha, hd⟩

/-- The soundness of a stack does not depend on the stack that the state holds. -/
theorem controlSound_withPc {s : State} {pc : List Activation} (h : stackSound s pc) : (s.withPc pc).controlSound :=
  stackSound_of_sameOperation (s := s) (t := s.withPc pc) ⟨rfl, rfl, rfl⟩ (.inl ⟨rfl, rfl⟩) h

/-- R30, R168: the stack is sound after every move of a sound one. -/
theorem Moves.controlSound {f : Activation} {r : List Activation} {s t : State} (hp : s.pc = f :: r)
    (hs : s.controlSound) (h : Moves f r s t) : t.controlSound := by
  rw [State.controlSound, hp] at hs
  obtain ⟨hf, hlink, hr⟩ := stackSound_cons.1 hs
  cases h.stackMove hp hs with
  | ends ht => rw [State.controlSound, ht]; trivial
  | goesOn f' ht hd hc hsound =>
    have hop := h.sameOperation hd
    have hx : SameChunk s t ∨ ∀ g ∈ r, g.routine.isChunkLoop = false := by
      cases hl : f.routine.isChunkLoop with
      | true => exact .inr (not_isChunkLoop_below hs hl)
      | false => exact .inl (h.sameChunk hl)
    rw [State.controlSound, ht]
    refine stackSound_cons.2 ⟨hop.sound hsound, fun g hg => ?_, stackSound_of_sameOperation hop hx hr⟩
    exact (hc.linked (hlink g hg)).of_sameOperation hop (hx.imp_right fun hx => hx g (List.mem_of_mem_head? hg))
  | calls c l ht hsound hl =>
    subst ht
    have hnew : stackSound s (⟨c, 1, l⟩ :: f :: r) := stackSound_cons.2 ⟨hsound, by simpa using hl, hs⟩
    exact controlSound_withPc hnew
  | returns g r' v hrr ht hsound =>
    subst hrr ht
    obtain ⟨-, hlink', hr'⟩ := stackSound_cons.1 hr
    have hnew : stackSound s (g.resume v :: r') :=
      stackSound_cons.2 ⟨hsound, fun g' hg' => (continues_resume g v).linked (hlink' g' hg'), hr'⟩
    exact controlSound_withPc hnew

/-- R31, R65: the activation an accepted command begins with is sound. -/
theorem sound_of_accepted {s : State} {c : Routine} {l : Locals} (hn : c = .writePage ∨ c = .readPage → l.n ≤ s.cfg.PACKET_SIZE) :
    (⟨c, 1, l⟩ : Activation).sound s :=
  ⟨firstStep_le_one c, one_le_lastStep c, by cases c <;> simp_all [Activation.localsSound]⟩

/-- A sound control state stays sound while the reset line moves on. -/
theorem controlSound_withResetLine {s : State} (h : s.controlSound) (l : List Bool) : (s.withResetLine l).controlSound :=
  stackSound_of_sameOperation (s := s) (t := s.withResetLine l) ⟨rfl, rfl, rfl⟩ (.inl ⟨rfl, rfl⟩) h

/-- Settles O35: reset and rejection leave no stack, an acceptance one sound activation, and a move of a sound stack a sound one. -/
theorem stepKeepsTheControlStateSound : Obligations.StepKeepsTheControlStateSound := by
  unfold Obligations.StepKeepsTheControlStateSound
  intro s t hs h
  cases step_steps h with
  | resets | rejects => trivial
  | idles l => exact controlSound_withResetLine hs l
  | accepts l c rest rt loc _ _ _ hloc =>
    obtain ⟨-, hn⟩ := hloc
    exact sound_of_accepted hn
  | runs l f r _ _ hp hm => exact hm.controlSound (s := s.withResetLine l) hp (controlSound_withResetLine hs l)

end Sys2Proof.Machine
end

section
/-! The chunk loop (R37, R160): the arithmetic of its registers at the start and from chunk to chunk, and R37's invariants over every
step of the machine. -/

namespace Sys2Proof.Machine

/-! ## The registers of the loop -/

theorem toNat_ofNat_of_le_capacity {c : Cfg} (hc : c.wf) {n : Nat} (hn : n ≤ c.CAPACITY) : (BitVec.ofNat 32 n).toNat = n := by
  obtain ⟨-, -, hcap⟩ := hc
  rw [BitVec.toNat_ofNat, Nat.mod_eq_of_lt (by omega)]

/-- R162, R163, step 2: R37 holds when the loop starts. -/
theorem loopInvariant_startRegs {c : Cfg} (hc : c.wf) {len : Nat} (hlen : len ≤ c.CAPACITY) (x : Regs) :
    (startRegs len x).loopInvariant c ∧ (startRegs len x).TOTAL.toNat = len := by
  have htotal := toNat_ofNat_of_le_capacity hc hlen
  simp [Regs.loopInvariant, startRegs, htotal, hlen]

/-- R160: while something remains after a chunk, that chunk was a whole packet. -/
theorem chunkLength_cases (c : Cfg) (remain : BitVec 32) :
    chunkLength c remain ≤ remain.toNat ∧ (chunkLength c remain = remain.toNat ∨ chunkLength c remain = c.PACKET_SIZE) := by
  unfold chunkLength
  omega

/-- R162 step 6, R163 step 7: R37 holds again after a chunk. -/
theorem loopInvariant_nextChunkRegs {c : Cfg} (hc : c.wf) {x : Regs} (h : x.loopInvariant c) (hr : x.REMAIN ≠ 0) :
    (nextChunkRegs (chunkLength c x.REMAIN) x).loopInvariant c := by
  obtain ⟨hda, hsum, hcap, hdvd⟩ := h
  obtain ⟨hle, hlen⟩ := chunkLength_cases c x.REMAIN
  have hdone := toNat_ofNat_of_le_capacity hc (n := x.DONE.toNat + chunkLength c x.REMAIN) (by omega)
  have hremain := toNat_ofNat_of_le_capacity hc (n := x.REMAIN.toNat - chunkLength c x.REMAIN) (by omega)
  refine ⟨by simp [nextChunkRegs, hda], ?_, hcap, fun hne => ?_⟩
  · simp only [nextChunkRegs, hdone, hremain]
    omega
  · rcases hlen with hlen | hlen
    · simp [nextChunkRegs, hlen] at hne
    · simp only [nextChunkRegs, hda, hdone]
      rw [hlen]
      exact Nat.dvd_add_self_right.2 (hda ▸ hdvd hr)

/-! ## The invariant of one activation -/

/-- R37 asks nothing of an activation that is no chunk loop. -/
theorem loopSound_of_not_isChunkLoop {f : Activation} (h : f.routine.isChunkLoop = false) (c : Cfg) (x : Regs) :
    f.loopSound c x := by
  unfold Activation.loopSound
  cases hf : f.routine <;> simp_all [Routine.isChunkLoop, chunkSteps]

/-- R37 asks nothing of an activation that has not started its registers. -/
theorem loopSound_of_step_lt {f : Activation} (h : f.step < 3) (c : Cfg) (x : Regs) : f.loopSound c x := by
  unfold Activation.loopSound
  split
  · trivial
  · exact fun h3 => by omega

/-- R37 depends on the four registers only. -/
theorem Activation.loopSound.of_sameLoopRegs {f : Activation} {c : Cfg} {x y : Regs} (hx : SameLoopRegs x y)
    (h : f.loopSound c x) : f.loopSound c y := by
  obtain ⟨ha, hr, ht, hd⟩ := hx
  simpa only [Activation.loopSound, Regs.loopInvariant, ha, hr, ht, hd] using h

/-- The last step of a chunk loop at which its chunk is in hand, the one at which the registers advance. -/
def lastChunkStep : Routine → Nat
  | .writeAll => 6
  | _ => 7

theorem chunkSteps_of_isChunkLoop {c : Routine} (h : c.isChunkLoop = true) : chunkSteps c = some (5, lastChunkStep c) := by
  rcases (isChunkLoop_iff c).1 h with rfl | rfl <;> rfl

/-- R37 of a chunk loop, written out. -/
theorem loopSound_iff {f : Activation} (hf : f.routine.isChunkLoop = true) (c : Cfg) (x : Regs) :
    f.loopSound c x ↔ (3 ≤ f.step →
      x.loopInvariant c ∧ x.TOTAL.toNat = f.loc.len ∧ (f.step ≠ 3 ∧ f.step ≤ lastChunkStep f.routine → x.REMAIN ≠ 0) ∧
        (5 ≤ f.step ∧ f.step ≤ lastChunkStep f.routine → f.loc.n = chunkLength c x.REMAIN) ∧
        (lastChunkStep f.routine < f.step → x.TOTAL ≠ 0)) := by
  rw [Activation.loopSound, chunkSteps_of_isChunkLoop hf]

/-- The steps of a chunk loop at which R37 comes to ask more: the start of the registers, the test that something remains, the cut of
the chunk, and the advance of the registers. -/
def loopBoundSteps (c : Routine) : List Nat := [2, 3, 4, lastChunkStep c]

/-- At any other step of a chunk loop R37 goes on holding, as long as the registers, the length and the chunk's length are the same. -/
theorem loopSound_next {f : Activation} {c : Cfg} {x y : Regs} {l : Locals} (hf : f.routine.isChunkLoop = true)
    (h : f.loopSound c x) (hx : SameLoopRegs x y) (hlen : l.len = f.loc.len) (hn : l.n = f.loc.n)
    (hk : f.step ∉ loopBoundSteps f.routine) : (f.next l).loopSound c y := by
  have h' := h.of_sameLoopRegs hx
  rw [loopSound_iff hf] at h'
  refine (loopSound_iff (f := f.next l) hf c y).2 fun h3 => ?_
  simp only [loopBoundSteps, List.mem_cons, List.not_mem_nil, not_or, or_false] at hk
  simp only [Activation.next, hlen, hn] at h3 ⊢
  obtain ⟨h2, h3', h4, hm⟩ := hk
  obtain ⟨hinv, htotal, hremain, hchunk, hpos⟩ := h' (by omega)
  exact ⟨hinv, htotal, fun _ => hremain (by omega), fun _ => hchunk (by omega), fun _ => hpos (by omega)⟩

/-! ## The moves of a chunk loop -/

/-- R162, R163, step 2. -/
theorem loopSound_starts {f : Activation} {c : Cfg} (hc : c.wf) (hf : f.routine.isChunkLoop = true) (hk : f.step = 2)
    (hlen : f.loc.len ≤ c.CAPACITY) (x : Regs) : (f.next f.loc).loopSound c (startRegs f.loc.len x) := by
  refine (loopSound_iff (f := f.next f.loc) hf c _).2 fun _ => ?_
  obtain ⟨hinv, htotal⟩ := loopInvariant_startRegs hc hlen x
  have hlast : 3 < lastChunkStep f.routine := by cases f.routine <;> decide
  simp only [Activation.next, hk]
  exact ⟨hinv, htotal, fun h => absurd rfl h.1, fun h => by omega, fun h => by omega⟩

/-- R162, R163, step 3: the loop goes on where something remains. -/
theorem loopSound_loops {f : Activation} {c : Cfg} {x : Regs} (hf : f.routine.isChunkLoop = true) (h : f.loopSound c x)
    (hk : f.step = 3) (hr : x.REMAIN ≠ 0) : (f.next f.loc).loopSound c x := by
  obtain ⟨hinv, htotal, -⟩ := (loopSound_iff hf c x).1 h (by omega)
  have hlast : 4 < lastChunkStep f.routine := by cases f.routine <;> decide
  refine (loopSound_iff (f := f.next f.loc) hf c x).2 fun _ => ?_
  simp only [Activation.next, hk]
  exact ⟨hinv, htotal, fun _ => hr, fun h => by omega, fun h => by omega⟩

/-- R160, step 4: the chunk in hand has R160's length. -/
theorem loopSound_cuts {f : Activation} {c : Cfg} {x : Regs} (hf : f.routine.isChunkLoop = true) (h : f.loopSound c x)
    (hk : f.step = 4) : (f.next { f.loc with n := chunkLength c x.REMAIN }).loopSound c x := by
  have hlast : 5 < lastChunkStep f.routine := by cases f.routine <;> decide
  obtain ⟨hinv, htotal, hremain, -⟩ := (loopSound_iff hf c x).1 h (by omega)
  refine (loopSound_iff (f := f.next _) hf c x).2 fun _ => ?_
  simp only [Activation.next, hk]
  exact ⟨hinv, htotal, fun _ => hremain (by omega), fun _ => trivial, fun h => by omega⟩

/-- R162 step 6, R163 step 7: the registers advance by the chunk in hand. -/
theorem loopSound_advances {f : Activation} {c : Cfg} {x : Regs} (hc : c.wf) (hf : f.routine.isChunkLoop = true)
    (h : f.loopSound c x) (hk : f.step = lastChunkStep f.routine) :
    (f.next f.loc).loopSound c (nextChunkRegs f.loc.n x) := by
  have hlast : 5 < lastChunkStep f.routine := by cases f.routine <;> decide
  obtain ⟨hinv, htotal, hremain, hchunk, -⟩ := (loopSound_iff hf c x).1 h (by omega)
  have hr : x.REMAIN ≠ 0 := hremain (by omega)
  have hinv' := loopInvariant_nextChunkRegs hc hinv hr
  rw [← hchunk (by omega)] at hinv'
  refine (loopSound_iff (f := f.next f.loc) hf c _).2 fun _ => ?_
  simp only [Activation.next, hk]
  refine ⟨hinv', htotal, fun h => by omega, fun h => by omega, fun _ ht => ?_⟩
  obtain ⟨-, hsum, -⟩ := hinv
  exact hr (BitVec.eq_of_toNat_eq (by simp_all [nextChunkRegs]))

/-- R162 step 9, R163 step 10: back to the top of the loop. -/
theorem loopSound_jumps {f : Activation} {c : Cfg} {x : Regs} (hf : f.routine.isChunkLoop = true) (h : f.loopSound c x)
    (hk : 3 ≤ f.step) : ({ f with step := 3 } : Activation).loopSound c x := by
  have hlast : 3 < lastChunkStep f.routine := by cases f.routine <;> decide
  obtain ⟨hinv, htotal, -⟩ := (loopSound_iff hf c x).1 h hk
  refine (loopSound_iff (f := { f with step := 3 }) hf c x).2 fun _ => ?_
  exact ⟨hinv, htotal, fun h => absurd rfl h.1, fun h => by simp at h, fun h => by simp at h; omega⟩

/-- R82: a chunk loop sends no frame itself. -/
theorem outgoing_of_isChunkLoop {f : Activation} (hf : f.routine.isChunkLoop = true) : f.outgoing = none := by
  rcases (isChunkLoop_iff _).1 hf with hrt | hrt <;> simp [Activation.outgoing, hrt]

/-- A step that the two chunk loops have under different numbers, and that is none of `loopBoundSteps`. -/
theorem not_mem_loopBoundSteps_of_either {f : Activation} {j k : Nat}
    (h : f.routine = .writeAll ∧ f.step = j ∨ f.routine = .readAll ∧ f.step = k) (hj : j ∉ loopBoundSteps .writeAll)
    (hk : k ∉ loopBoundSteps .readAll) : f.step ∉ loopBoundSteps f.routine := by
  rcases h with ⟨hrt, h⟩ | ⟨hrt, h⟩ <;> rwa [hrt, h]

/-- R161: the only check of a chunk loop is that of the size, its first step. -/
theorem checkStep_of_isChunkLoop {c : Routine} {k : Nat} (hc : c.isChunkLoop = true) (h : (c, k) ∈ checkSteps) : k = 1 := by
  rcases (isChunkLoop_iff c).1 hc with rfl | rfl <;> simpa [checkSteps] using h

/-- R37 after a move of a chunk loop, for the loop itself and for the callers below it, which are none. -/
theorem Moves.loopsSound_of_isChunkLoop {f : Activation} {r : List Activation} {s t : State} (hp : s.pc = f :: r)
    (hc : s.cfg.wf) (hs : stackSound s (f :: r)) (hf : f.routine.isChunkLoop = true) (hl : s.loopsSound) (h : Moves f r s t) :
    t.loopsSound := by
  have hbelow := not_isChunkLoop_below hs hf
  have hfl : f.loopSound s.cfg s.x := hl f (by simp [hp])
  have hrt := (isChunkLoop_iff _).1 hf
  have below (c : Cfg) (x : Regs) (g : Activation) (hg : g ∈ r) : g.loopSound c x :=
    loopSound_of_not_isChunkLoop (hbelow g hg) c x
  have top {u : State} (f' : Activation) (hpc : u.pc = f' :: r) (hf' : f'.loopSound u.cfg u.x) : u.loopsSound := by
    rw [State.loopsSound, hpc]
    exact List.forall_mem_cons.2 ⟨hf', below _ _⟩
  have next {u : State} (p : Nat) (hpc : u.pc = f.next { f.loc with p := p } :: r) (hcfg : u.cfg = s.cfg)
      (hx : SameLoopRegs s.x u.x) (hk : f.step ∉ loopBoundSteps f.routine) : u.loopsSound :=
    top _ hpc (hcfg ▸ loopSound_next hf hfl hx rfl rfl hk)
  cases h with
  | waits => exact hl
  | sends _ _ _ ho => simp [outgoing_of_isChunkLoop hf] at ho
  | fails | ends | endsPage | endsWithFlag => simp [State.loopsSound]
  | passes _ hk =>
    have hk := checkStep_of_isChunkLoop hf hk
    exact top _ rfl (loopSound_of_step_lt (by simp [Activation.next, hk]) ..)
  | cuts _ hk => exact top _ rfl (loopSound_cuts hf hfl hk)
  | measures hk | silent hk | reports hk =>
    exact next _ rfl rfl ⟨rfl, rfl, rfl, rfl⟩ (not_mem_loopBoundSteps_of_either hk (by decide) (by decide))
  | loops _ hk hr => exact top _ rfl (loopSound_loops hf hfl hk hr)
  | jumps k hk =>
    obtain ⟨rfl, h3⟩ : k = 3 ∧ 3 ≤ f.step := by
      rcases hk with hk | hk | hk | hk <;> rcases hrt with hrt | hrt <;> simp_all
    exact top _ rfl (loopSound_jumps hf hfl h3)
  | stores _ _ hk =>
    rcases hk with ⟨hid, -⟩ | ⟨hra, hk, -⟩
    · simp [hid, Routine.isChunkLoop] at hf
    · exact next _ rfl rfl (.refl _) (by rw [hra, hk]; decide)
  | toFF hra hk => exact next f.loc.p rfl rfl ⟨rfl, rfl, rfl, rfl⟩ (by rw [hra, hk]; decide)
  | toEQ hra hk => exact next f.loc.p rfl rfl ⟨rfl, rfl, rfl, rfl⟩ (by rw [hra, hk]; decide)
  | starts _ hk =>
    obtain ⟨⟨-, -, hloc⟩, -⟩ := stackSound_cons.1 hs
    refine top _ rfl (loopSound_starts hc hf hk ?_ s.x)
    rcases hrt with hrt | hrt <;> simp_all [Activation.localsSound]
  | advances hk =>
    refine top _ rfl (loopSound_advances hc hf hfl ?_)
    rcases hk with ⟨hrt, hk⟩ | ⟨hrt, hk⟩ <;> rw [hrt, hk] <;> rfl
  | calls c l =>
    exact List.forall_mem_cons.2 ⟨loopSound_of_step_lt (by simp) .., List.forall_mem_cons.2 ⟨hfl, below _ _⟩⟩
  | returns v g r' hr =>
    subst hr
    have hg : (g.resume v).routine = g.routine := (continues_resume g v).routine
    refine List.forall_mem_cons.2 ⟨loopSound_of_not_isChunkLoop ?_ .., fun g' hg' => below _ _ g' (.tail _ hg')⟩
    rw [hg]
    exact hbelow g (.head _)
  | receives | builds h | swaps h | ready h | delays _ h | spins h | reads h | latches h | blank h | equal h =>
    rcases hrt with hrt | hrt <;> simp_all

/-! ## The moves of the other routines -/

/-- R160: a chunk loop has its chunk in hand when its page operation returns, and after it. -/
theorem loopSound_resume {f g : Activation} {s : State} (hl : Linked s g f) (hg : g.loopSound s.cfg s.x) (v : Returned) :
    (g.resume v).loopSound s.cfg s.x := by
  obtain ⟨hcall, -⟩ := hl
  cases hgl : g.routine.isChunkLoop with
  | false => exact loopSound_of_not_isChunkLoop ((continues_resume g v).routine ▸ hgl) ..
  | true =>
    have hk : g.step ∉ loopBoundSteps g.routine := by
      rcases (isChunkLoop_iff _).1 hgl with hrt | hrt <;> rw [hrt] at hcall ⊢
      · rw [(callee_writeAll hcall).1]; decide
      · rw [(callee_readAll hcall).1]; decide
    cases v <;> exact loopSound_next hgl hg (.refl _) rfl rfl hk

/-- R37 after a move of a routine that is no chunk loop, for the loop it runs for. -/
theorem Moves.loopsSound_of_not_isChunkLoop {f : Activation} {r : List Activation} {s t : State} (hp : s.pc = f :: r)
    (hs : stackSound s (f :: r)) (hf : f.routine.isChunkLoop = false) (hl : s.loopsSound) (h : Moves f r s t) :
    t.loopsSound := by
  obtain ⟨-, hlink, -⟩ := stackSound_cons.1 hs
  rw [State.loopsSound, hp] at hl
  cases h.stackMove hp hs with
  | ends ht => simp [State.loopsSound, ht]
  | goesOn f' ht hd hcont hsound =>
    obtain ⟨hcfg, -⟩ := h.keepsHostSide
    rw [State.loopsSound, ht, hcfg]
    exact List.forall_mem_cons.2 ⟨loopSound_of_not_isChunkLoop (hcont.routine ▸ hf) ..,
      fun g hg => (hl g (.tail _ hg)).of_sameLoopRegs (h.sameLoopRegs hf)⟩
  | calls c l ht =>
    subst ht
    exact List.forall_mem_cons.2 ⟨loopSound_of_step_lt (by simp) .., hl⟩
  | returns g r' v hr ht =>
    subst hr ht
    exact List.forall_mem_cons.2 ⟨loopSound_resume (hlink g rfl) (hl g (by simp)) v, fun g' hg' => hl g' (by simp [hg'])⟩

/-- Settles O38: where a chunk loop runs, by the arithmetic of its registers; where another routine runs, because it leaves them. -/
theorem stepKeepsTheLoopInvariants : Obligations.StepKeepsTheLoopInvariants := by
  unfold Obligations.StepKeepsTheLoopInvariants
  intro s t hc hs hl h
  cases step_steps h with
  | resets | rejects => simp [State.loopsSound]
  | idles l => exact hl
  | accepts => exact List.forall_mem_cons.2 ⟨loopSound_of_step_lt (by simp) .., by simp⟩
  | runs l f r _ _ hp hm =>
    have hs' : stackSound (s.withResetLine l) (f :: r) := hp ▸ controlSound_withResetLine hs l
    cases hf : f.routine.isChunkLoop with
    | true => exact hm.loopsSound_of_isChunkLoop (s := s.withResetLine l) hp hc hs' hf hl
    | false => exact hm.loopsSound_of_not_isChunkLoop (s := s.withResetLine l) hp hs' hf hl

end Sys2Proof.Machine
end

section
/-! From a sound control state the machine always has a next state (R30, R168, R198): an accepted command, a frame that is handed over,
and every numbered step of a routine proceed. -/

namespace Sys2Proof

/-! ## The frames of the two page operations decode -/

/-- R83, R84: a program frame decodes to what it was built from. -/
theorem decodeFrame_ppFrame (a : BitVec 24) (payload : List Byte) : decodeFrame (ppFrame a payload) = .ok (.pp a payload) := by
  simp [decodeFrame, ppFrame, addrBytes, opPp, addrOfBytes_of_address]

/-- R83: so does a read header. -/
theorem decodeFrame_readFrame (a : BitVec 24) : decodeFrame (readFrame a) = .ok (.read a) := by
  simp [decodeFrame, readFrame, addrBytes, opRead, addrOfBytes_of_address]

end Sys2Proof

namespace Sys2Proof.Machine

/-! ## Outcomes that are a next state -/

/-- The outcome is a next state, neither a fault nor a refusal. -/
def Proceeds (o : Outcome) : Prop := ∃ t, o = .next t

@[simp] theorem proceeds_next (t : State) : Proceeds (.next t) := ⟨t, rfl⟩

@[simp] theorem proceeds_ite {p : Prop} [Decidable p] {o o' : Outcome} :
    Proceeds (if p then o else o') ↔ (p → Proceeds o) ∧ (¬p → Proceeds o') := by
  split_ifs with h <;> simp [h]

@[simp] theorem proceeds_checkOk (l : Locals) (s : State) : Proceeds (checkOk l s) := by simp [checkOk]
@[simp] theorem proceeds_checkNotBusy (l : Locals) (s : State) : Proceeds (checkNotBusy l s) := by simp [checkNotBusy]
@[simp] theorem proceeds_checkArmed (l : Locals) (s : State) : Proceeds (checkArmed l s) := by simp [checkArmed]
@[simp] theorem proceeds_checkCount (n : Nat) (l : Locals) (s : State) : Proceeds (checkCount n l s) := by simp [checkCount]
@[simp] theorem proceeds_checkSize (l : Locals) (s : State) : Proceeds (checkSize l s) := by simp [checkSize]
@[simp] theorem proceeds_loopTest (s : State) : Proceeds (loopTest s) := by simp [loopTest]
@[simp] theorem proceeds_reportProgress (l : Locals) (s : State) : Proceeds (reportProgress l s) := by simp [reportProgress]
@[simp] theorem proceeds_readPhase (n : Nat) (s : State) : Proceeds (readPhase n s) := ⟨_, rfl⟩

/-- R31: a command is accepted or waits. -/
theorem proceeds_accept (c : Routine) (l : Locals) (s : State) : Proceeds (accept c l s) := by
  unfold accept
  split <;> exact proceeds_next _

/-- R31, R90: a page operation is accepted, completes at once, or waits. -/
theorem proceeds_acceptPage (c : Routine) (l : Locals) (s : State) : Proceeds (acceptPage c l s) := by
  unfold acceptPage
  split <;> simp

/-- No instruction faults or is refused. -/
theorem proceeds_exec (i : Instr) (s : State) : Proceeds (exec i s) := by
  cases i with
  | rdsr | wren | wrdi | rdid | be | pp | read => exact ⟨_, rfl⟩
  | writePage | readPage => exact proceeds_acceptPage ..
  | _ => exact proceeds_accept ..

/-- R31, R90: a presented command is taken, whatever its word. -/
theorem proceeds_acceptStep (c : Command) (rest : List Command) (s : State) : Proceeds (acceptStep c rest s) := by
  unfold acceptStep
  split
  · exact proceeds_exec ..
  · exact proceeds_next _

/-! ## The running activation -/

/-- R80, R84: what a sound activation is about to send is a frame. -/
theorem decodes_of_outgoing {f : Activation} {s : State} {bytes : List Byte} (hf : f.sound s) (h : f.outgoing = some bytes) :
    ∃ i, decodeFrame bytes = .ok i := by
  obtain ⟨-, -, hl⟩ := hf
  unfold Activation.outgoing at h
  split at h <;> cases h
  case h_6 hrt hk =>
    simp only [Activation.localsSound, hrt, hk] at hl
    obtain ⟨-, -, hframe⟩ := hl
    exact ⟨_, (congrArg decodeFrame (hframe trivial)).trans (decodeFrame_ppFrame ..)⟩
  case h_7 => exact ⟨_, decodeFrame_readFrame _⟩
  all_goals exact ⟨_, rfl⟩

/-- R30: every numbered step of a routine that sends no frame proceeds. -/
theorem proceeds_routineStep {f : Activation} (hlo : firstStep f.routine ≤ f.step) (hhi : f.step ≤ lastStep f.routine)
    (ho : f.outgoing = none) (s : State) : Proceeds (routineStep f s) := by
  obtain ⟨c, k, l⟩ := f
  cases c <;> simp only [routineStep, firstStep, lastStep] at hlo hhi ⊢
  case readStatus => interval_cases k <;> simp [stepReadStatus, Activation.outgoing] at ho ⊢
  case writeEnable => interval_cases k <;> simp [stepWriteEnable, Activation.outgoing] at ho ⊢
  case writeDisable => interval_cases k <;> simp [stepWriteDisable, Activation.outgoing] at ho ⊢
  case readId => interval_cases k <;> simp [stepReadId, Activation.outgoing] at ho ⊢
  case bulkErase => interval_cases k <;> simp [stepBulkErase, Activation.outgoing] at ho ⊢
  case writePage => interval_cases k <;> simp [stepWritePage, Activation.outgoing] at ho ⊢
  case readPage => interval_cases k <;> simp [stepReadPage, Activation.outgoing] at ho ⊢
  case reverseBits => interval_cases k; simp [stepReverseBits]
  case writeAll => interval_cases k <;> simp [stepWriteAll, cutChunk, calcPercent]
  case readAll => interval_cases k <;> simp [stepReadAll, cutChunk, calcPercent]
  case isEmpty => interval_cases k <;> simp [stepIsEmpty]
  case programAndVerify => interval_cases k <;> simp [stepProgramAndVerify]

/-- R30: the step of a sound activation proceeds. -/
theorem proceeds_runStep {f : Activation} {s : State} (hf : f.sound s) : Proceeds (runStep f s) := by
  cases ho : f.outgoing with
  | none =>
    rw [runStep_silent ho]
    obtain ⟨hlo, hhi, -⟩ := hf
    exact proceeds_routineStep hlo hhi ho s
  | some bytes =>
    obtain ⟨i, hi⟩ := decodes_of_outgoing hf ho
    simp only [runStep, ho, hi]
    exact proceeds_exec i s

/-- A sequencer step of a sound control state proceeds. -/
theorem proceeds_sequencerStep {s : State} (hs : s.controlSound) : Proceeds (sequencerStep s) := by
  unfold sequencerStep
  split
  · exact proceeds_next _
  · exact proceeds_acceptStep ..
  · rename_i f r hp
    rw [State.controlSound, hp] at hs
    obtain ⟨hf, -⟩ := stackSound_cons.1 hs
    exact proceeds_runStep hf

/-- Settles O36: reset proceeds, and so does the sequencer's step from a sound control state. -/
theorem soundControlStateNeverStops : Obligations.SoundControlStateNeverStops := by
  unfold Obligations.SoundControlStateNeverStops
  intro s hs
  rcases step_cases s with ⟨l, -, h⟩ | ⟨l, -, h⟩ <;> rw [h]
  · exact ⟨_, rfl⟩
  · exact proceeds_sequencerStep (controlSound_withResetLine hs l)

end Sys2Proof.Machine
end

section
/-! The total, the percentage and the events take no part in control (R36, R213): every operation of the machine commutes with taking
them away, but for the two that write them, and so does the step. -/

namespace Sys2Proof.Machine

/-! ## What is taken away -/

/-- The local values without the percentage in hand. -/
def Locals.withoutProgress (l : Locals) : Locals := { l with p := 0 }

/-- The activation without the percentage in hand. -/
def Activation.withoutProgress (f : Activation) : Activation := { f with loc := f.loc.withoutProgress }

/-- The working registers without the total and the percentage last reported. -/
def Regs.withoutProgress (x : Regs) : Regs := { x with TOTAL := 0, LASTPCT := 0 }

/-- The outcome of a step without the progress of its next state. -/
def withoutProgressOf : Outcome → Outcome
  | .next t => .next t.withoutProgress
  | .fault r => .fault r
  | .refused r => .refused r

@[simp] theorem withoutProgressOf_next (t : State) : withoutProgressOf (.next t) = .next t.withoutProgress := rfl
@[simp] theorem withoutProgressOf_fault (r : Fault) : withoutProgressOf (.fault r) = .fault r := rfl

@[simp] theorem withoutProgress_cfg (s : State) : s.withoutProgress.cfg = s.cfg := rfl
@[simp] theorem withoutProgress_x (s : State) : s.withoutProgress.x = s.x.withoutProgress := rfl
@[simp] theorem withoutProgress_pc (s : State) : s.withoutProgress.pc = s.pc.map Activation.withoutProgress := rfl
@[simp] theorem withoutProgress_WBUF (s : State) : s.withoutProgress.WBUF = s.WBUF := rfl
@[simp] theorem withoutProgress_RBUF (s : State) : s.withoutProgress.RBUF = s.RBUF := rfl
@[simp] theorem withoutProgress_chipSelect (s : State) : s.withoutProgress.chipSelect = s.chipSelect := rfl
@[simp] theorem withoutProgress_port (s : State) : s.withoutProgress.port = s.port := rfl
@[simp] theorem withoutProgress_resetLine (s : State) : s.withoutProgress.resetLine = s.resetLine := rfl
@[simp] theorem withoutProgress_oracle (s : State) : s.withoutProgress.oracle = s.oracle := rfl
@[simp] theorem withoutProgress_calls (s : State) : s.withoutProgress.calls = s.calls := rfl
@[simp] theorem withoutProgress_draws (s : State) : s.withoutProgress.draws = s.draws := rfl

@[simp] theorem Locals.withoutProgress_withoutProgress (l : Locals) :
    l.withoutProgress.withoutProgress = l.withoutProgress := rfl

@[simp] theorem Activation.withoutProgress_withoutProgress (f : Activation) :
    f.withoutProgress.withoutProgress = f.withoutProgress := rfl

@[simp] theorem State.withoutProgress_withoutProgress (s : State) :
    s.withoutProgress.withoutProgress = s.withoutProgress := by
  simp [State.withoutProgress, Function.comp_def]

@[simp] theorem Locals.withoutProgress_a (l : Locals) : l.withoutProgress.a = l.a := rfl
@[simp] theorem Locals.withoutProgress_i (l : Locals) : l.withoutProgress.i = l.i := rfl
@[simp] theorem Locals.withoutProgress_n (l : Locals) : l.withoutProgress.n = l.n := rfl
@[simp] theorem Locals.withoutProgress_len (l : Locals) : l.withoutProgress.len = l.len := rfl
@[simp] theorem Locals.withoutProgress_b (l : Locals) : l.withoutProgress.b = l.b := rfl
@[simp] theorem Locals.withoutProgress_sink (l : Locals) : l.withoutProgress.sink = l.sink := rfl
@[simp] theorem Locals.withoutProgress_s (l : Locals) : l.withoutProgress.s = l.s := rfl
@[simp] theorem Locals.withoutProgress_cnt (l : Locals) : l.withoutProgress.cnt = l.cnt := rfl
@[simp] theorem Locals.withoutProgress_ok (l : Locals) : l.withoutProgress.ok = l.ok := rfl
@[simp] theorem Locals.withoutProgress_d (l : Locals) : l.withoutProgress.d = l.d := rfl
@[simp] theorem Locals.withoutProgress_chunk (l : Locals) : l.withoutProgress.chunk = l.chunk := rfl
@[simp] theorem Locals.withoutProgress_out (l : Locals) : l.withoutProgress.out = l.out := rfl

@[simp] theorem Regs.withoutProgress_ADDR (x : Regs) : x.withoutProgress.ADDR = x.ADDR := rfl
@[simp] theorem Regs.withoutProgress_REMAIN (x : Regs) : x.withoutProgress.REMAIN = x.REMAIN := rfl
@[simp] theorem Regs.withoutProgress_DONE (x : Regs) : x.withoutProgress.DONE = x.DONE := rfl
@[simp] theorem Regs.withoutProgress_ALLFF (x : Regs) : x.withoutProgress.ALLFF = x.ALLFF := rfl
@[simp] theorem Regs.withoutProgress_EQ (x : Regs) : x.withoutProgress.EQ = x.EQ := rfl

@[simp] theorem withoutProgress_startRegs (len : Nat) (x : Regs) :
    (startRegs len x.withoutProgress).withoutProgress = (startRegs len x).withoutProgress := rfl
@[simp] theorem withoutProgress_nextChunkRegs (n : Nat) (x : Regs) :
    (nextChunkRegs n x.withoutProgress).withoutProgress = (nextChunkRegs n x).withoutProgress := rfl

/-! ## The named updates -/

@[simp] theorem withoutProgress_emit (s : State) (ev : Event) : (s.log (.emit ev)).withoutProgress = s.withoutProgress := by
  simp [State.withoutProgress, State.log]

/-- An action that is no event stays in the trace. -/
@[simp] theorem withoutProgress_log (s : State) (a : Action) (h : ∀ ev, a ≠ .emit ev) :
    (s.log a).withoutProgress = s.withoutProgress.log a := by
  cases a <;> simp_all [State.withoutProgress, State.log]

@[simp] theorem withoutProgress_withX (s : State) (x : Regs) :
    (s.withX x).withoutProgress = s.withoutProgress.withX x.withoutProgress := rfl
@[simp] theorem withoutProgress_withPc (s : State) (pc : List Activation) :
    (s.withPc pc).withoutProgress = s.withoutProgress.withPc (pc.map Activation.withoutProgress) := rfl
@[simp] theorem withoutProgress_withRbuf (s : State) (m : Memory) :
    (s.withRbuf m).withoutProgress = s.withoutProgress.withRbuf m := rfl
@[simp] theorem withoutProgress_withAnswered (s : State) (o : Oracle) (l : Line) :
    (s.withAnswered o l).withoutProgress = s.withoutProgress.withAnswered o l := rfl
@[simp] theorem withoutProgress_withRecord (s : State) (r : Result) (v : Option Byte) (b : Option Bool) :
    (s.withRecord r v b).withoutProgress = s.withoutProgress.withRecord r v b := rfl
@[simp] theorem withoutProgress_taken (s : State) (c : Command) (rest : List Command) :
    (s.taken c rest).withoutProgress = s.withoutProgress.taken c rest := rfl
@[simp] theorem withoutProgress_withResetLine (s : State) (l : List Bool) :
    (s.withResetLine l).withoutProgress = s.withoutProgress.withResetLine l := rfl

/-! ## Control -/

/-- The local values `g` gives are, the percentage aside, those that `h` gives. -/
theorem withoutProgress_advanceWith_of {g h : Locals → Locals} (hg : ∀ l, (g l).withoutProgress = h l.withoutProgress)
    (s : State) : (s.advanceWith g).withoutProgress = s.withoutProgress.advanceWith h := by
  cases hp : s.pc <;> simp [State.advanceWith, State.mapTop, hp, Activation.withoutProgress, hg]

/-- New local values that neither read nor write the percentage. -/
theorem withoutProgress_advanceWith {g : Locals → Locals} {s : State} (hg : ∀ l, (g l).withoutProgress = g l.withoutProgress) :
    (s.advanceWith g).withoutProgress = s.withoutProgress.advanceWith g := withoutProgress_advanceWith_of hg s

/-- The same on two states that differ in progress only. -/
theorem withoutProgress_advanceWith_congr {g : Locals → Locals} (hg : ∀ l, (g l).withoutProgress = g l.withoutProgress)
    {s s' : State} (h : s.withoutProgress = s'.withoutProgress) :
    (s.advanceWith g).withoutProgress = (s'.advanceWith g).withoutProgress := by
  rw [withoutProgress_advanceWith hg, withoutProgress_advanceWith hg, h]

@[simp] theorem withoutProgress_advance (s : State) : s.advance.withoutProgress = s.withoutProgress.advance :=
  withoutProgress_advanceWith (g := id) fun _ => rfl

@[simp] theorem withoutProgress_goto (k : Nat) (s : State) : (s.goto k).withoutProgress = s.withoutProgress.goto k := by
  cases hp : s.pc <;> simp [State.goto, State.mapTop, hp, Activation.withoutProgress]

@[simp] theorem withoutProgress_call (c : Routine) (l : Locals) (s : State) :
    (s.call c l).withoutProgress = s.withoutProgress.call c l.withoutProgress := rfl

@[simp] theorem withoutProgress_resume (v : Returned) (g : Activation) :
    (g.resume v).withoutProgress = g.withoutProgress.resume v := by
  cases v <;> rfl

/-! ## Transport calls and buffers -/

@[simp] theorem withoutProgress_xferWrite (bytes : List Byte) (csA csR : Bool) (s : State) :
    (xferWrite bytes csA csR s).withoutProgress = xferWrite bytes csA csR s.withoutProgress := by
  unfold xferWrite
  simp only [withoutProgress_oracle, withoutProgress_cfg, withoutProgress_calls]
  split
  · rfl
  · rw [withoutProgress_advanceWith]
    · simp
    · exact fun _ => rfl

@[simp] theorem withoutProgress_xferRead (n : Nat) (csA csR : Bool) (s : State) :
    (xferRead n csA csR s).withoutProgress = xferRead n csA csR s.withoutProgress := by
  unfold xferRead
  simp only [withoutProgress_oracle, withoutProgress_cfg, withoutProgress_calls]
  split
  · rfl
  · rw [withoutProgress_advanceWith]
    · simp
    · exact fun _ => rfl

@[simp] theorem wbufBytes_withoutProgress (i n : Nat) (s : State) : wbufBytes i n s.withoutProgress = wbufBytes i n s := rfl

@[simp] theorem firstByte_withoutProgress (l : Locals) (s : State) :
    firstByte l.withoutProgress s.withoutProgress = firstByte l s := rfl

/-! ## The end of an operation -/

@[simp] theorem withoutProgress_finish (r : Result) (v : Option Byte) (b : Option Bool) (s : State) :
    (finish r v b s).withoutProgress = finish r v b s.withoutProgress := by
  simp [finish]

@[simp] theorem drawOperation_withoutProgress (s : State) : drawOperation s.withoutProgress = drawOperation s := by
  unfold drawOperation State.operation
  cases h : s.pc.getLast? <;> simp [h]
  rfl

@[simp] theorem withoutProgress_raise (e : Error) (s : State) : (raise e s).withoutProgress = raise e s.withoutProgress := by
  simp [raise, rbufAfterError]

@[simp] theorem withoutProgress_returnWith (v : Returned) (value : Option Byte) (s : State) :
    (returnWith v value s).withoutProgress = returnWith v value s.withoutProgress := by
  rcases hp : s.pc with _ | ⟨f, _ | ⟨g, r⟩⟩ <;> simp [returnWith, hp]

@[simp] theorem withoutProgress_returnPage (out : List Byte) (s : State) :
    (returnPage out s).withoutProgress = returnPage out s.withoutProgress := by
  rcases hp : s.pc with _ | ⟨f, _ | ⟨g, r⟩⟩ <;> simp [returnPage, hp]

@[simp] theorem withoutProgress_disposeChunk (l : Locals) (s : State) :
    (disposeChunk l s).withoutProgress = disposeChunk l.withoutProgress s.withoutProgress := by
  cases hl : l.sink <;> simp [disposeChunk, hl] <;> rfl

/-! ## Checks -/

@[simp] theorem withoutProgressOf_ite {p : Prop} [Decidable p] {o o' : Outcome} :
    withoutProgressOf (if p then o else o') = if p then withoutProgressOf o else withoutProgressOf o' :=
  apply_ite ..

@[simp] theorem withoutProgressOf_checkOk (l : Locals) (s : State) :
    withoutProgressOf (checkOk l s) = checkOk l.withoutProgress s.withoutProgress := by
  unfold checkOk; split <;> simp [*]
@[simp] theorem withoutProgressOf_checkNotBusy (l : Locals) (s : State) :
    withoutProgressOf (checkNotBusy l s) = checkNotBusy l.withoutProgress s.withoutProgress := by
  unfold checkNotBusy; split <;> simp [*]
@[simp] theorem withoutProgressOf_checkArmed (l : Locals) (s : State) :
    withoutProgressOf (checkArmed l s) = checkArmed l.withoutProgress s.withoutProgress := by
  unfold checkArmed; split <;> simp [*]
@[simp] theorem withoutProgressOf_checkCount (n : Nat) (l : Locals) (s : State) :
    withoutProgressOf (checkCount n l s) = checkCount n l.withoutProgress s.withoutProgress := by
  unfold checkCount; split <;> simp [*]
@[simp] theorem withoutProgressOf_checkSize (l : Locals) (s : State) :
    withoutProgressOf (checkSize l s) = checkSize l.withoutProgress s.withoutProgress := by
  unfold checkSize; split <;> simp [*]
@[simp] theorem withoutProgressOf_loopTest (s : State) :
    withoutProgressOf (loopTest s) = loopTest s.withoutProgress := by
  unfold loopTest; split <;> simp_all
@[simp] theorem withoutProgressOf_readPhase (n : Nat) (s : State) :
    withoutProgressOf (readPhase n s) = readPhase n s.withoutProgress := by simp [readPhase]
@[simp] theorem withoutProgressOf_cutChunk (s : State) : withoutProgressOf (cutChunk s) = cutChunk s.withoutProgress :=
  congrArg Host.Outcome.next (withoutProgress_advanceWith fun _ => rfl)

/-- R166: the percentage that is calculated is taken away, and with it the total it is calculated from. -/
@[simp] theorem withoutProgressOf_calcPercent (s : State) : withoutProgressOf (calcPercent s) = .next s.withoutProgress.advance := by
  refine congrArg Host.Outcome.next (withoutProgress_advanceWith_of (h := id) ?_ s)
  exact fun _ => rfl

/-- R166, R213: a report of progress is a step that does nothing else. -/
@[simp] theorem withoutProgressOf_reportProgress (l : Locals) (s : State) :
    withoutProgressOf (reportProgress l s) = .next s.withoutProgress.advance := by
  unfold reportProgress
  split <;> simp
  rfl

/-! ## The routines -/

theorem withoutProgressOf_stepReadStatus (k : Nat) (l : Locals) (s : State) :
    withoutProgressOf (stepReadStatus k l s) = withoutProgressOf (stepReadStatus k l.withoutProgress s.withoutProgress) := by
  unfold stepReadStatus
  split
  case h_4 => simp [Regs.withoutProgress]
  all_goals simp

theorem withoutProgressOf_stepWriteEnable (k : Nat) (l : Locals) (s : State) :
    withoutProgressOf (stepWriteEnable k l s) = withoutProgressOf (stepWriteEnable k l.withoutProgress s.withoutProgress) := by
  unfold stepWriteEnable
  split <;> simp

theorem withoutProgressOf_stepWriteDisable (k : Nat) (l : Locals) (s : State) :
    withoutProgressOf (stepWriteDisable k l s) = withoutProgressOf (stepWriteDisable k l.withoutProgress s.withoutProgress) := by
  unfold stepWriteDisable
  split <;> simp

theorem withoutProgressOf_stepReadId (k : Nat) (l : Locals) (s : State) :
    withoutProgressOf (stepReadId k l s) = withoutProgressOf (stepReadId k l.withoutProgress s.withoutProgress) := by
  unfold stepReadId
  split <;> simp

theorem withoutProgressOf_stepBulkErase (k : Nat) (l : Locals) (s : State) :
    withoutProgressOf (stepBulkErase k l s) = withoutProgressOf (stepBulkErase k l.withoutProgress s.withoutProgress) := by
  unfold stepBulkErase
  split
  case h_10 => cases hb : busy l.s <;> simp [hb]
  all_goals simp

theorem withoutProgressOf_stepWritePage (k : Nat) (l : Locals) (s : State) :
    withoutProgressOf (stepWritePage k l s) = withoutProgressOf (stepWritePage k l.withoutProgress s.withoutProgress) := by
  unfold stepWritePage
  split
  case h_7 | h_8 =>
    refine congrArg Host.Outcome.next (withoutProgress_advanceWith_congr ?_ ?_)
    exacts [fun _ => rfl, by simp]
  case h_13 => cases hb : busy l.s <;> simp [hb]
  all_goals simp

theorem withoutProgressOf_stepReadPage (k : Nat) (l : Locals) (s : State) :
    withoutProgressOf (stepReadPage k l s) = withoutProgressOf (stepReadPage k l.withoutProgress s.withoutProgress) := by
  unfold stepReadPage
  split
  case h_8 =>
    refine congrArg Host.Outcome.next (withoutProgress_advanceWith_congr ?_ ?_)
    exacts [fun _ => rfl, by simp]
  all_goals simp

theorem withoutProgressOf_stepReverseBits (k : Nat) (l : Locals) (s : State) :
    withoutProgressOf (stepReverseBits k l s) = withoutProgressOf (stepReverseBits k l.withoutProgress s.withoutProgress) := by
  unfold stepReverseBits
  split <;> simp

theorem withoutProgressOf_stepWriteAll (k : Nat) (l : Locals) (s : State) :
    withoutProgressOf (stepWriteAll k l s) = withoutProgressOf (stepWriteAll k l.withoutProgress s.withoutProgress) := by
  unfold stepWriteAll
  split <;> simp

theorem withoutProgressOf_stepReadAll (k : Nat) (l : Locals) (s : State) :
    withoutProgressOf (stepReadAll k l s) = withoutProgressOf (stepReadAll k l.withoutProgress s.withoutProgress) := by
  unfold stepReadAll
  split <;> simp

theorem withoutProgressOf_stepIsEmpty (k : Nat) (l : Locals) (s : State) :
    withoutProgressOf (stepIsEmpty k l s) = withoutProgressOf (stepIsEmpty k l.withoutProgress s.withoutProgress) := by
  unfold stepIsEmpty
  split
  case h_1 => simp [Regs.withoutProgress]
  all_goals simp

theorem withoutProgressOf_stepProgramAndVerify (k : Nat) (l : Locals) (s : State) :
    withoutProgressOf (stepProgramAndVerify k l s) = withoutProgressOf (stepProgramAndVerify k l.withoutProgress s.withoutProgress) := by
  unfold stepProgramAndVerify
  split
  case h_3 => simp [Regs.withoutProgress]
  all_goals simp

/-! ## The step -/

@[simp] theorem Activation.withoutProgress_outgoing (f : Activation) : f.withoutProgress.outgoing = f.outgoing := rfl

theorem withoutProgressOf_routineStep (f : Activation) (s : State) :
    withoutProgressOf (routineStep f s) = withoutProgressOf (routineStep f.withoutProgress s.withoutProgress) := by
  obtain ⟨c, k, l⟩ := f
  cases c with
  | readStatus => exact withoutProgressOf_stepReadStatus k l s
  | writeEnable => exact withoutProgressOf_stepWriteEnable k l s
  | writeDisable => exact withoutProgressOf_stepWriteDisable k l s
  | readId => exact withoutProgressOf_stepReadId k l s
  | bulkErase => exact withoutProgressOf_stepBulkErase k l s
  | writePage => exact withoutProgressOf_stepWritePage k l s
  | readPage => exact withoutProgressOf_stepReadPage k l s
  | reverseBits => exact withoutProgressOf_stepReverseBits k l s
  | writeAll => exact withoutProgressOf_stepWriteAll k l s
  | readAll => exact withoutProgressOf_stepReadAll k l s
  | isEmpty => exact withoutProgressOf_stepIsEmpty k l s
  | programAndVerify => exact withoutProgressOf_stepProgramAndVerify k l s

theorem withoutProgressOf_accept {l : Locals} (hl : l.withoutProgress = l) (c : Routine) (s : State) :
    withoutProgressOf (accept c l s) = accept c l s.withoutProgress := by
  cases hp : s.pc <;> simp [accept, hp, hl]

theorem withoutProgressOf_acceptPage {l : Locals} (hl : l.withoutProgress = l) (c : Routine) (s : State) :
    withoutProgressOf (acceptPage c l s) = acceptPage c l s.withoutProgress := by
  cases hp : s.pc <;> simp [acceptPage, hp, hl]

/-- R31, R80: an accepted operation begins with no percentage in hand, and a frame is one transport call. -/
theorem withoutProgressOf_exec (i : Instr) (s : State) : withoutProgressOf (exec i s) = exec i s.withoutProgress := by
  cases i with
  | rdsr | wren | wrdi | rdid | be | pp | read => exact congrArg Host.Outcome.next (withoutProgress_xferWrite ..)
  | writePage | readPage => exact withoutProgressOf_acceptPage rfl ..
  | _ => exact withoutProgressOf_accept rfl ..

theorem withoutProgressOf_acceptStep (c : Command) (rest : List Command) (s : State) :
    withoutProgressOf (acceptStep c rest s) = acceptStep c rest s.withoutProgress := by
  unfold acceptStep
  split
  · exact withoutProgressOf_exec ..
  · simp

theorem withoutProgressOf_runStep (f : Activation) (s : State) :
    withoutProgressOf (runStep f s) = withoutProgressOf (runStep f.withoutProgress s.withoutProgress) := by
  unfold runStep
  rw [Activation.withoutProgress_outgoing]
  split
  · split
    · simp [withoutProgressOf_exec]
    · rfl
  · exact withoutProgressOf_routineStep f s

theorem withoutProgressOf_sequencerStep (s : State) :
    withoutProgressOf (sequencerStep s) = withoutProgressOf (sequencerStep s.withoutProgress) := by
  unfold sequencerStep
  rcases hp : s.pc with _ | ⟨f, r⟩
  · cases hq : s.port <;> simp [hp, hq, withoutProgressOf_acceptStep]
  · simpa [hp] using withoutProgressOf_runStep f s

/-- R230, R232: what a reset leaves behind does not depend on the progress it cuts short. -/
theorem withoutProgress_assertReset (s : State) :
    (assertReset s.withoutProgress).withoutProgress = (assertReset s).withoutProgress := by
  unfold assertReset
  rw [drawOperation_withoutProgress]
  cases hp : s.pc with
  | nil => simp [State.withoutProgress, hp]
  | cons f r =>
    simp [State.withoutProgress, hp]
    rfl

/-- R36, R213: the step of a state, and of the state without its progress, differ in progress only. -/
theorem withoutProgressOf_step (s : State) : withoutProgressOf (step s) = withoutProgressOf (step s.withoutProgress) := by
  unfold step
  rw [withoutProgress_resetLine]
  split
  · exact withoutProgressOf_sequencerStep s
  · exact withoutProgressOf_sequencerStep (s.withResetLine _)
  · exact congrArg Host.Outcome.next (withoutProgress_assertReset (s.withResetLine _)).symm

/-- Settles O48: the step sees a state only through what is left of it without its progress. -/
theorem progressTakesNoPartInControl : Obligations.ProgressTakesNoPartInControl := by
  unfold Obligations.ProgressTakesNoPartInControl
  intro s s' t h ht
  have hstep : withoutProgressOf (step s') = .next t.withoutProgress := by
    rw [withoutProgressOf_step, ← h, ← withoutProgressOf_step, ht, withoutProgressOf_next]
  cases hs' : step s' with
  | next t' =>
    rw [hs', withoutProgressOf_next] at hstep
    exact ⟨t', rfl, (Host.Outcome.next.inj hstep).symm⟩
  | fault | refused => rw [hs'] at hstep; cases hstep

end Sys2Proof.Machine
end

section
/-! The step by its input (R30, R31, R38, R230): the decoded instruction, the reset state, reset at any time, and acceptance in IDLE
only. -/

namespace Sys2Proof.Machine

/-- Settles O6: by the definition of the step, for each of the three inputs. -/
theorem stepRunsTheDecodedInstruction : Obligations.StepRunsTheDecodedInstruction := by
  unfold Obligations.StepRunsTheDecodedInstruction
  refine ⟨fun s c rest i hr hp hq hi => ?_, fun s f r bytes i hr hp ho hi => ?_, fun s l hr => ?_⟩
  · simp only [step, hr, sequencerStep, hp, hq, acceptStep, hi]
  · simp only [step_running hp hr, runStep, ho, hi]
  · simp only [step, hr]

/-! ## Reset -/

/-- R217: a block that is idle stays as it is while nothing is presented. -/
theorem step_idle {s : State} (hr : s.resetLine = []) (hp : s.pc = []) (hq : s.port = []) : step s = .next s := by
  simp only [step, hr, sequencerStep, hp, hq]

/-- Settles O7: the reset state is idle, and nothing is presented to it. -/
theorem resetIsIdleAndRunsNothing : Obligations.ResetIsIdleAndRunsNothing :=
  ⟨rfl, rfl, by decide, step_idle rfl rfl rfl⟩

/-- R31, R90: an idle block takes the command that is presented, and no other. -/
theorem step_takesCommand {s : State} {c : Command} {rest : List Command} (hr : s.resetLine = []) (hp : s.pc = [])
    (hq : s.port = c :: rest) : ∃ u, step s = .next u ∧ u.port = rest := by
  obtain ⟨u, hu⟩ := soundControlStateNeverStops s (by rw [State.controlSound, hp]; trivial)
  refine ⟨u, hu, ?_⟩
  cases step_steps hu with
  | resets l hl => simp [hl] at hr
  | idles l _ _ hq' => simp [hq'] at hq
  | rejects l c' rest' _ _ hq' | accepts l c' rest' _ _ _ _ hq' =>
    obtain ⟨-, rfl⟩ := List.cons.inj (hq'.symm.trans hq)
    rfl
  | runs l f r _ _ hp' => simp [hp'] at hp

/-- Settles O8: reset empties the stack and touches nothing that the statement names; after it the block is idle. -/
theorem resetAtAnyTime : Obligations.ResetAtAnyTime := by
  unfold Obligations.ResetAtAnyTime
  intro s l hr
  refine ⟨assertReset (s.withResetLine l), by simp only [step, hr], rfl, rfl, rfl, rfl, rfl, rfl, rfl, ?_, ?_, ?_⟩
  · intro hp
    exact ⟨drawOperation_idle hp, assertReset_oracle_idle hp, by simp [assertReset, hp]⟩
  · exact fun hl hq => step_idle hl rfl hq
  · exact fun hl c rest hq => step_takesCommand hl rfl hq

/-! ## Acceptance -/

/-- R30, R31: an operation accepted in IDLE begins at its step 1. -/
theorem accept_of_idle {s : State} (hp : s.pc = []) (c : Routine) (l : Locals) :
    accept c l s = .next { s with pc := [{ routine := c, step := 1, loc := l }] } := by
  simp [accept, hp, State.call, State.withPc]

/-- R30, R31: so does a page operation no longer than a packet. -/
theorem acceptPage_of_idle {s : State} (hp : s.pc = []) {l : Locals} (hn : l.n ≤ s.cfg.PACKET_SIZE) (c : Routine) :
    acceptPage c l s = .next { s with pc := [{ routine := c, step := 1, loc := l }] } := by
  simp [acceptPage, hp, Nat.not_lt.2 hn, State.call, State.withPc]

/-- R31: outside IDLE a host operation waits. -/
theorem exec_of_running {s : State} (hp : s.pc ≠ []) {i : Instr} (hi : i.isFrame = false) : exec i s = .next s := by
  obtain ⟨f, r, hp⟩ := List.exists_cons_of_ne_nil hp
  have waits (c : Routine) (l : Locals) : accept c l s = .next s ∧ acceptPage c l s = .next s := by
    simp [accept, acceptPage, hp]
  cases i with
  | rdsr | wren | wrdi | rdid | be | pp | read => simp [Instr.isFrame] at hi
  | writePage | readPage => exact (waits ..).2
  | _ => exact (waits ..).1

/-- R31: no step of a running block takes or drops a presented command. -/
theorem step_port_of_running {s t : State} (hp : s.pc ≠ []) (h : step s = .next t) : t.port = s.port := by
  cases step_steps h with
  | resets => rfl
  | idles l _ hp' | rejects l _ _ _ hp' | accepts l _ _ _ _ _ hp' => exact absurd hp' hp
  | runs l f r _ _ _ hm =>
    obtain ⟨-, -, hport, -⟩ := hm.keepsHostSide
    exact hport

/-- Settles O9: in IDLE each operation is accepted by its meaning's definition; outside IDLE it waits. -/
theorem commandsAreAcceptedInIdleOnly : Obligations.CommandsAreAcceptedInIdleOnly := by
  unfold Obligations.CommandsAreAcceptedInIdleOnly
  intro s
  refine ⟨fun hp => ?_, fun hp => ⟨fun i hi => exec_of_running hp hi, fun t h => step_port_of_running hp h⟩⟩
  have began (c : Routine) (l : Locals) := accept_of_idle hp c l
  exact ⟨began .., began .., began .., began .., began .., began .., fun _ => began .., fun _ => began .., fun _ => began ..,
    fun _ => began .., fun _ _ hn => ⟨acceptPage_of_idle hp hn _, acceptPage_of_idle hp hn _⟩⟩

/-! ## The invariants at reset -/

/-- Settles O40: the reset state has an empty stack, unknown buffers, and an empty trace. -/
theorem resetMeetsTheInvariants : Obligations.ResetMeetsTheInvariants := by
  have hnone : writesArmed State.reset.cfg State.reset.trace := by
    intro before after bytes csA csR n ok h
    simp [State.reset, calls] at h
  exact ⟨trivial, by simp [State.loopsSound, State.reset],
    ⟨Memory.unknown_wf, Memory.unknown_wf, trivial⟩, trivial, hnone, by simp [State.reset]⟩

end Sys2Proof.Machine
end
section
namespace Sys2Proof

/-- R82, R83: a byte sequence that stands for a frame is that frame's encoding. -/
theorem encode_of_decodeFrame {bytes : List Byte} {i : Instr} (h : decodeFrame bytes = .ok i) : encode i = .frame bytes := by
  unfold decodeFrame at h
  split at h
  case h_1 => cases h
  case h_2 op rest =>
    have hop {n : Nat} (hn : op.toNat = n) : op = BitVec.ofNat 8 n := by rw [← hn, BitVec.ofNat_toNat, BitVec.setWidth_eq]
    split at h <;> cases h
    case h_6 hn => simp [encode, ppFrame, opPp, addrBytes_addrOfBytes, hop hn]
    case h_7 hn => simp [encode, readFrame, opRead, addrBytes_addrOfBytes, hop hn]
    all_goals rename_i hn; rw [hop hn]; rfl

end Sys2Proof

namespace Sys2Proof.Machine

/-- R80: a decoded frame's meaning is one transport write of the bytes it was decoded from. -/
theorem exec_of_decodeFrame {bytes : List Byte} {i : Instr} (hd : decodeFrame bytes = .ok i) (s : State) :
    exec i s = .next (xferWrite bytes true (shapeA i) s) := by
  obtain ⟨sent, hsent, hx⟩ := exec_frame (isFrame_of_decodeFrame hd) s
  cases (encode_of_decodeFrame hd).symm.trans hsent
  exact hx

/-- Settles O11: a frame is one transport write, and a listed answer fixes what that write does. -/
theorem framesAreHandedToTheTransport : Obligations.FramesAreHandedToTheTransport := by
  unfold Obligations.FramesAreHandedToTheTransport
  intro i s n ok d rest hi ho
  obtain ⟨bytes, hb, hx⟩ := exec_frame hi s
  exact ⟨bytes, hb, by rw [hx, xferWrite_returned ho]; rfl⟩

/-- Settles O12: the write of a frame and the read phase are transport calls, and a listed answer that never returns leaves each
with nothing done. -/
theorem callThatNeverReturnsHoldsTheBlock : Obligations.CallThatNeverReturnsHoldsTheBlock := by
  unfold Obligations.CallThatNeverReturnsHoldsTheBlock
  intro s rest ho
  refine ⟨fun i hi => ?_, fun n => ?_⟩
  · obtain ⟨bytes, -, hx⟩ := exec_frame hi s
    rw [hx]
    simp [xferWrite, ho, Oracle.answer]
  · simp [readPhase, xferRead, ho, Oracle.answer]

end Sys2Proof.Machine
end

section
/-! The transport calls of a step (R53, R54, R55): a step makes at most one, and that one is lawful. -/

namespace Sys2Proof.Machine

/-! ## The calls of a trace -/

@[simp] theorem calls_append (tr acts : List Action) : calls (tr ++ acts) = calls tr ++ calls acts := by simp [calls]

@[simp] theorem calls_nil : calls [] = [] := rfl

@[simp] theorem calls_cons (a : Action) (acts : List Action) :
    calls (a :: acts) = if a.isCall then a :: calls acts else calls acts := by simp [calls, List.filter_cons]

@[simp] theorem isCall_write (bytes : List Byte) (csA csR : Bool) (cnt : Nat) (ok : Bool) :
    (Action.write bytes csA csR cnt ok).isCall = true := rfl
@[simp] theorem isCall_read (n : Nat) (csA csR : Bool) (d : List Byte) (cnt : Nat) (ok : Bool) :
    (Action.read n csA csR d cnt ok).isCall = true := rfl
@[simp] theorem isCall_delay (t : Nat) : (Action.delay t).isCall = false := rfl
@[simp] theorem isCall_emit (ev : Event) : (Action.emit ev).isCall = false := rfl
@[simp] theorem isCall_memRead (i n : Nat) : (Action.memRead i n).isCall = false := rfl
@[simp] theorem isCall_memWrite (i : Nat) (v : List Byte) : (Action.memWrite i v).isCall = false := rfl
@[simp] theorem isCall_done (r : Result) (v : Option Byte) (b : Option Bool) : (Action.done r v b).isCall = false := rfl

/-- R55: only a transport call can be unlawful. -/
theorem lawful_of_not_isCall {a : Action} (h : a.isCall = false) : a.lawful := by
  cases a <;> simp [Action.lawful] at h ⊢

theorem lawful_write {bytes : List Byte} {i : Instr} (hd : decodeFrame bytes = .ok i) (cnt : Nat) (ok : Bool) :
    (Action.write bytes true (shapeA i) cnt ok).lawful := ⟨i, hd, rfl, rfl⟩

theorem lawful_read (n : Nat) (d : List Byte) (cnt : Nat) (ok : Bool) : (Action.read n false true d cnt ok).lawful := ⟨rfl, rfl⟩

/-- R55: so a trace is lawful where its calls are. -/
theorem lawful_iff_calls (tr : List Action) : (∀ a ∈ tr, a.lawful) ↔ ∀ a ∈ calls tr, a.lawful := by
  refine ⟨fun h a ha => h a (List.mem_of_mem_filter ha), fun h a ha => ?_⟩
  cases hc : a.isCall with
  | false => exact lawful_of_not_isCall hc
  | true => exact h a (List.mem_filter.2 ⟨ha, hc⟩)

/-! ## The calls of a step -/

/-- The two traces show the same calls. -/
def SameCalls (s t : State) : Prop := calls t.trace = calls s.trace

/-- R80: a frame that is sent waits, or stands in the trace of the next state as one call with the flags of its shape. -/
theorem exec_decodedFrame_cases {f : Activation} {r : List Activation} {bytes : List Byte} {i : Instr} {s t : State}
    (hp : s.pc = f :: r) (hd : decodeFrame bytes = .ok i) (he : exec i s = .next t) :
    t = s ∨ ∃ cnt ok, t.cfg = s.cfg ∧ t.trace = s.trace ++ [.write bytes true (shapeA i) cnt ok] ∧
      t.pc = f.next { f.loc with cnt := cnt, ok := ok } :: r := by
  rw [exec_of_decodeFrame hd] at he
  cases he
  rcases xferWrite_cases bytes true (shapeA i) s with hw | ⟨cnt, ok, data, o, -, hw⟩ <;> rw [hw]
  · exact .inl rfl
  · exact .inr ⟨cnt, ok, rfl, rfl, by simp [hp, Activation.next]⟩

/-- R55, R80: a move makes no call, or one lawful call. -/
theorem Moves.lawfulCall_or {f : Activation} {r : List Activation} {s t : State} (hp : s.pc = f :: r) (h : Moves f r s t) :
    SameCalls s t ∨ ∃ a, a.lawful ∧ t.trace = s.trace ++ [a] := by
  cases h with
  | sends bytes i _ _ hd he =>
    rcases exec_decodedFrame_cases hp hd he with rfl | ⟨cnt, ok, -, htr, -⟩
    · exact .inl rfl
    · exact .inr ⟨_, lawful_write hd cnt ok, htr⟩
  | receives n cnt ok o data => exact .inr ⟨_, lawful_read .., rfl⟩
  | _ => left; simp [SameCalls]

/-- The same of every step of the machine. -/
theorem Steps.lawfulCall_or {s t : State} (h : Steps s t) : SameCalls s t ∨ ∃ a, a.lawful ∧ t.trace = s.trace ++ [a] := by
  cases h with
  | resets | idles | accepts => exact .inl rfl
  | rejects => left; simp [SameCalls]
  | runs l f r _ _ hp hm => exact Moves.lawfulCall_or (s := s.withResetLine l) hp hm

/-- Settles O41: a step adds no call to the trace, or one lawful call. -/
theorem stepMakesOnlyLawfulCalls : Obligations.StepMakesOnlyLawfulCalls := by
  unfold Obligations.StepMakesOnlyLawfulCalls
  intro s t hs h
  rcases (step_steps h).lawfulCall_or with ht | ⟨a, ha, ht⟩
  · rw [lawful_iff_calls, ht, ← lawful_iff_calls]
    exact hs
  · rw [ht, List.forall_mem_append]
    exact ⟨hs, List.forall_mem_singleton.2 ha⟩

end Sys2Proof.Machine
end

section
/-! The arming of a write-class command (R70, R131): the latest calls while `BULK_ERASE` or `WRITE_PAGE` runs, and so the calls
before every erase and program frame. -/

namespace Sys2Proof.Machine

/-! ## The latest calls -/

theorem endsWith.of_sameCalls {s t : State} {acts : List Action} (ht : SameCalls s t) (h : endsWith s.trace acts) :
    endsWith t.trace acts := by
  rwa [endsWith, ht]

/-- A call that follows the latest calls is the last of them. -/
theorem endsWith.snoc {tr acts : List Action} {a : Action} (ha : a.isCall = true) (h : endsWith tr acts) :
    endsWith (tr ++ [a]) (acts ++ [a]) := by
  obtain ⟨earlier, h⟩ := h
  exact ⟨earlier, by simp [h, ha]⟩

/-- The latest call is the one just made. -/
theorem endsWith_append_self {tr : List Action} {a : Action} (ha : a.isCall = true) : endsWith (tr ++ [a]) [a] :=
  ⟨calls tr, by simp [ha]⟩

/-- R70, R131: the latest calls arm a write-class command. -/
def State.armed (s : State) : Prop := ∃ arm, armingCalls s.cfg arm ∧ endsWith s.trace arm

theorem State.armed.of_sameCalls {s t : State} (hc : t.cfg = s.cfg) (ht : SameCalls s t) (h : s.armed) : t.armed := by
  obtain ⟨arm, harm, hend⟩ := h
  exact ⟨arm, hc ▸ harm, hend.of_sameCalls ht⟩

/-! ## Every write-class frame is armed -/

/-- R70: whether an instruction is a frame that needs the latch. -/
def needsLatch (i : Instr) : Prop := i = .be ∨ ∃ a payload, i = .pp a payload

theorem writesArmed.of_sameCalls {s t : State} (hc : t.cfg = s.cfg) (ht : SameCalls s t) (h : writesArmed s.cfg s.trace) :
    writesArmed t.cfg t.trace := by
  rwa [writesArmed, hc, ht]

/-- R70: a call that is added keeps every write-class frame armed, if it is none or the calls before it arm it. -/
theorem writesArmed.snoc {c : Cfg} {tr : List Action} {a : Action} (h : writesArmed c tr) (hcall : a.isCall = true)
    (ha : ∀ bytes csA csR n ok i, a = .write bytes csA csR n ok → decodeFrame bytes = .ok i → needsLatch i →
      ∃ arm, armingCalls c arm ∧ endsWith tr arm) : writesArmed c (tr ++ [a]) := by
  intro before after bytes csA csR n ok heq hw
  simp only [calls_append, calls_cons, hcall, if_true, calls_nil] at heq
  rcases List.eq_nil_or_concat after with rfl | ⟨after, b, rfl⟩
  · obtain ⟨rfl, hab⟩ := List.append_inj' heq rfl
    obtain ⟨i, hd, hi⟩ : ∃ i, decodeFrame bytes = .ok i ∧ needsLatch i := by
      rcases hw with hw | ⟨a, payload, hw⟩
      · exact ⟨_, hw, .inl rfl⟩
      · exact ⟨_, hw, .inr ⟨a, payload, rfl⟩⟩
    obtain ⟨arm, harm, earlier, hend⟩ := ha bytes csA csR n ok i (by simpa using hab) hd hi
    exact ⟨earlier, arm, hend, harm⟩
  · rw [List.concat_eq_append, ← List.cons_append, ← List.append_assoc] at heq
    obtain ⟨heq, -⟩ := List.append_inj' heq rfl
    exact h before after bytes csA csR n ok heq hw

/-! ## Who arms -/

/-- R132, R133: the operations that send a write-class frame themselves. -/
def Activation.armsItself (f : Activation) : Prop := f.routine = .bulkErase ∨ f.routine = .writePage

/-- R168: what a write-class operation calls, by its step. -/
theorem callee_of_armsItself {g : Activation} {c : Routine} (hg : g.armsItself) (h : callee g.routine g.step = some c) :
    g.step = 3 ∧ c = .writeEnable ∨ g.step = 4 ∧ c = .readStatus ∨
      g.step ≠ 3 ∧ g.step ≠ 4 ∧ c = .readStatus ∧ (g.step = 1 ∨ g.step = 9 ∨ g.step = 12) := by
  rcases hg with hg | hg <;> rw [hg] at h <;> unfold callee at h <;> split at h <;> simp_all

/-- R168: a write-class operation is no caller of one that calls another. -/
theorem not_armsItself_below {s : State} {f g : Activation} {r : List Activation} (h : stackSound s (f :: g :: r)) :
    ∀ k ∈ r.head?, ¬k.armsItself := by
  rintro k hk harms
  obtain ⟨-, ⟨hcall, -⟩, hr⟩ := h
  obtain ⟨-, hlink, -⟩ := stackSound_cons.1 hr
  obtain ⟨hcall', -⟩ := hlink k hk
  have h1 := level_of_callee hcall
  have h2 := level_of_callee hcall'
  have h3 : k.routine.level = 1 := by rcases harms with h | h <;> rw [h] <;> rfl
  omega

/-- The arming invariant of a stack with `f` on top, by what `f` is: the write-class operation itself, its `WRITE_ENABLE`, or its
confirming `READ_STATUS`. -/
theorem armingSound_iff {s : State} {f : Activation} {r : List Activation} (hp : s.pc = f :: r)
    (hcall : ∀ g ∈ r.head?, callee g.routine g.step = some f.routine) :
    s.armingSound ↔ (f.armsItself → armingAtStep s f) ∧
      (f.routine = .writeEnable → (∃ g ∈ r.head?, g.armsItself) → armingInEnable s f) ∧
      (f.routine = .readStatus → (∃ g ∈ r.head?, g.armsItself ∧ g.step = 4) → armingInStatus s f) := by
  cases r with
  | nil => simp [State.armingSound, hp, Activation.armsItself]
  | cons g r =>
    have hg (harms : g.armsItself) := callee_of_armsItself harms (hcall g rfl)
    simp only [State.armingSound, hp, List.head?_cons, Option.mem_some_iff, exists_eq_left']
    change (f.armsItself → _) ∧ (g.armsItself → _) ↔ _
    grind

/-- R131: the part of the invariant that speaks of the running operation itself. -/
theorem armingSound_own {s : State} {f : Activation} {r : List Activation} (hp : s.pc = f :: r) (hs : s.armingSound) :
    f.armsItself → armingAtStep s f := by
  rw [State.armingSound, hp] at hs
  obtain ⟨hown, -⟩ := hs
  exact hown

/-- R131: while `f` goes on, the invariant is kept where each of its three parts is. -/
theorem armingSound_goesOn {s t : State} {f f' : Activation} {r : List Activation} (hp : s.pc = f :: r)
    (hcall : ∀ g ∈ r.head?, callee g.routine g.step = some f.routine) (hs : s.armingSound) (ht : t.pc = f' :: r)
    (hrt : f'.routine = f.routine) (h1 : f.armsItself → armingAtStep s f → armingAtStep t f')
    (h2 : f.routine = .writeEnable → armingInEnable s f → armingInEnable t f')
    (h3 : f.routine = .readStatus → armingInStatus s f → armingInStatus t f') : t.armingSound := by
  obtain ⟨hs1, hs2, hs3⟩ := (armingSound_iff hp hcall).1 hs
  refine (armingSound_iff ht (hrt ▸ hcall)).2 ⟨fun h => ?_, fun h hg => ?_, fun h hg => ?_⟩
  · have harms : f.armsItself := by rwa [Activation.armsItself, ← hrt]
    exact h1 harms (hs1 harms)
  · exact h2 (hrt ▸ h) (hs2 (hrt ▸ h) hg)
  · exact h3 (hrt ▸ h) (hs3 (hrt ▸ h) hg)

/-! ## The parts of the invariant, one move on -/

/-- R131: before its enable and after its frame nothing is asked of a write-class operation. -/
theorem armingAtStep_outside {s : State} {f : Activation}
    (h : f.step < 4 ∨ 8 < f.step ∨ f.routine = .bulkErase ∧ 6 < f.step) : armingAtStep s f := by
  unfold armingAtStep
  split <;> simp_all

/-- R131: from the confirmation on the latest calls arm the operation. -/
theorem armingAtStep_of_armed {s : State} {f : Activation} (h : s.armed) (hk : 6 ≤ f.step) : armingAtStep s f := by
  unfold armingAtStep
  split
  case h_3 => exact h
  case h_4 | h_5 => exact fun _ => h
  case h_6 => trivial
  all_goals omega

theorem armed_of_armingAtStep {s : State} {f : Activation} (hrt : f.routine = .writePage) (hk : 6 ≤ f.step ∧ f.step ≤ 8)
    (h : armingAtStep s f) : s.armed := by
  obtain ⟨c, k, l⟩ := f
  obtain ⟨hlo, hhi⟩ := hk
  interval_cases k
  · exact h
  · exact h hrt
  · exact h hrt

/-- R131: a check that passes at a step of a write-class operation; the confirmation is what completes the arming. -/
theorem armingAtStep_passes {s : State} {f : Activation} (hf : f.armsItself) (he : errorAt s.cfg f = none)
    (hk : (f.routine, f.step) ∈ checkSteps) (h : armingAtStep s f) : armingAtStep s (f.next f.loc) := by
  obtain ⟨c, k, l⟩ := f
  by_cases h5 : k = 5
  · subst h5
    have hconfirm : confirmFails s.cfg l.s = false := by
      rcases hf with rfl | rfl <;> simpa [errorAt] using he
    obtain ⟨n, m, q, hend⟩ := h
    exact armingAtStep_of_armed ⟨_, ⟨n, m, q, l.s, hconfirm, rfl⟩, hend⟩ (Nat.le_refl 6)
  · refine armingAtStep_outside ?_
    rcases hf with rfl | rfl <;> simp [checkSteps, h5, Activation.next] at hk ⊢ <;> omega

/-- R191: `WRITE_ENABLE` goes on where its call was answered with success. -/
theorem armingInEnable_passes {s : State} {f : Activation} (hf : f.routine = .writeEnable) (he : errorAt s.cfg f = none)
    (hk : (f.routine, f.step) ∈ checkSteps) (h : armingInEnable s f) : armingInEnable s (f.next f.loc) := by
  obtain ⟨c, k, l⟩ := f
  cases hf
  obtain rfl : k = 2 := by simpa [checkSteps] using hk
  have hok : l.ok = true := by simpa [errorAt] using he
  simpa [armingInEnable, Activation.next, hok] using h

/-- R191: so does `READ_STATUS`, after each of its calls. -/
theorem armingInStatus_passes {s : State} {f : Activation} (hf : f.routine = .readStatus) (he : errorAt s.cfg f = none)
    (hk : (f.routine, f.step) ∈ checkSteps) (h : armingInStatus s f) : armingInStatus s (f.next f.loc) := by
  obtain ⟨c, k, l⟩ := f
  cases hf
  have hk : k = 2 ∨ k = 4 := by simpa [checkSteps] using hk
  rcases hk with rfl | rfl <;> have hok : l.ok = true := by simpa [errorAt] using he
  all_goals simpa [armingInStatus, Activation.next, hok] using h

/-- R82: a routine that sends a frame does so at one step. -/
theorem outgoing_eq_some {f : Activation} {bytes : List Byte} (h : f.outgoing = some bytes) :
    (f.routine, f.step, bytes) ∈ ([(.readStatus, 1, [opRdsr]), (.writeEnable, 1, [opWren]), (.writeDisable, 1, [opWrdi]),
      (.readId, 1, [opRdid]), (.bulkErase, 6, [opBe]), (.writePage, 8, f.loc.frame),
      (.readPage, 3, readHeader f.loc.a)] : List (Routine × Nat × List Byte)) := by
  unfold Activation.outgoing at h
  split at h <;> simp_all

/-- R70: a write-class frame is sent by the operation it belongs to, which has armed it. -/
theorem armed_of_outgoing {s : State} {f : Activation} {r : List Activation} {bytes : List Byte} {i : Instr}
    (hp : s.pc = f :: r) (hs : s.armingSound) (ho : f.outgoing = some bytes) (hd : decodeFrame bytes = .ok i)
    (hi : needsLatch i) : s.armed := by
  have hown := armingSound_own hp hs
  obtain ⟨c, k, l⟩ := f
  have h := outgoing_eq_some ho
  simp only [List.mem_cons, Prod.mk.injEq, List.not_mem_nil, or_false] at h
  rcases h with ⟨-, -, rfl⟩ | ⟨-, -, rfl⟩ | ⟨-, -, rfl⟩ | ⟨-, -, rfl⟩ | ⟨rfl, rfl, -⟩ | ⟨rfl, rfl, -⟩ | ⟨-, -, rfl⟩
  case inr.inr.inr.inr.inl => exact hown (.inl rfl)
  case inr.inr.inr.inr.inr.inl => exact hown (.inr rfl) rfl
  case inr.inr.inr.inr.inr.inr =>
    cases (decodeFrame_readFrame _).symm.trans hd
    simp [needsLatch] at hi
  all_goals
    cases hd
    simp [needsLatch] at hi

/-- R131: the arming invariant after a frame has been sent: the enable and the status header are new latest calls. -/
theorem armingSound_sends {s t : State} {f : Activation} {r : List Activation} {bytes : List Byte} {i : Instr} {cnt : Nat}
    {ok : Bool} (hp : s.pc = f :: r) (hcall : ∀ g ∈ r.head?, callee g.routine g.step = some f.routine) (hs : s.armingSound)
    (ho : f.outgoing = some bytes) (hd : decodeFrame bytes = .ok i)
    (htr : t.trace = s.trace ++ [.write bytes true (shapeA i) cnt ok])
    (ht : t.pc = f.next { f.loc with cnt := cnt, ok := ok } :: r) : t.armingSound := by
  have h := outgoing_eq_some ho
  obtain ⟨c, k, l⟩ := f
  refine armingSound_goesOn hp hcall hs ht rfl ?_ ?_ ?_
  · rintro (rfl | rfl) - <;> obtain ⟨rfl, -⟩ : k = _ ∧ bytes = _ := by simpa using h
    all_goals simp [armingAtStep, Activation.next]
  · rintro rfl -
    obtain ⟨rfl, rfl⟩ : k = 1 ∧ bytes = [opWren] := by simpa using h
    cases hd
    exact ⟨cnt, htr ▸ endsWith_append_self rfl⟩
  · rintro rfl harm
    obtain ⟨rfl, rfl⟩ : k = 1 ∧ bytes = [opRdsr] := by simpa using h
    cases hd
    obtain ⟨n, hend⟩ := harm
    exact ⟨n, cnt, htr ▸ hend.snoc rfl⟩

/-- R131: the arming invariant after a read phase has returned: the phase of the confirming status read is the new latest call. -/
theorem armingSound_receives {s t : State} {f : Activation} {r : List Activation} {n cnt : Nat} {ok : Bool} {d : List Byte}
    (hp : s.pc = f :: r) (hcall : ∀ g ∈ r.head?, callee g.routine g.step = some f.routine) (hs : s.armingSound)
    (h : f.routine = .readStatus ∧ f.step = 3 ∧ n = 1 ∨ f.routine = .readId ∧ f.step = 3 ∧ n = Cfg.ID_LEN ∨
      f.routine = .readPage ∧ f.step = 5 ∧ n = f.loc.n) (htr : t.trace = s.trace ++ [.read n false true d cnt ok])
    (ht : t.pc = f.next { f.loc with d := d, cnt := cnt, ok := ok } :: r) : t.armingSound := by
  obtain ⟨c, k, l⟩ := f
  refine armingSound_goesOn hp hcall hs ht rfl ?_ ?_ ?_
  · rintro (rfl | rfl) <;> simp at h
  · rintro rfl
    simp at h
  · rintro rfl harm
    obtain ⟨rfl, rfl⟩ : k = 3 ∧ n = 1 := by simpa using h
    obtain ⟨n, m, hend⟩ := harm
    exact ⟨n, m, cnt, htr ▸ hend.snoc rfl⟩

/-- R131: the arming invariant after a call: the confirming status read begins where the enable was the latest call. -/
theorem armingSound_calls {s : State} {f : Activation} {r : List Activation} (hp : s.pc = f :: r) (hs : s.armingSound)
    (c : Routine) (l : Locals) (hcall : callee f.routine f.step = some c) :
    (s.withPc (⟨c, 1, l⟩ :: f :: r)).armingSound := by
  have hown := armingSound_own hp hs
  refine (armingSound_iff (f := ⟨c, 1, l⟩) rfl (by simpa using hcall)).2 ⟨fun _ => trivial, fun _ _ => trivial, ?_⟩
  rintro - ⟨g, hg, harms, hk⟩
  cases hg
  have h := hown harms
  rw [armingAtStep, hk] at h
  exact h

/-- R131: the arming invariant after a return: what the enable and the confirming status read have done is handed to the operation that
waits for them. -/
theorem armingSound_returns {s : State} {f g : Activation} {r : List Activation} {v : Returned} (hp : s.pc = f :: g :: r)
    (hstack : stackSound s (f :: g :: r)) (hs : s.armingSound) (hen : f.routine = .writeEnable → f.step = 3)
    (hst : f.routine = .readStatus → f.step = 6 ∧ v = .byte (firstByte f.loc s)) :
    (s.withPc (g.resume v :: r)).armingSound := by
  obtain ⟨⟨-, -, hloc⟩, hlink, hrest⟩ := stackSound_cons.1 hstack
  obtain ⟨-, hlink', -⟩ := stackSound_cons.1 hrest
  have hbelow := not_armsItself_below hstack
  obtain ⟨hcall, -⟩ := hlink g rfl
  obtain ⟨-, hs2, hs3⟩ := (armingSound_iff hp (by simpa using hcall)).1 hs
  have hrt : (g.resume v).routine = g.routine := (continues_resume g v).routine
  refine (armingSound_iff rfl fun k hk => ?_).2 ⟨fun harms => ?_, ?_, ?_⟩
  · obtain ⟨hcall', -⟩ := hlink' k hk
    exact hrt ▸ hcall'
  · have harms : g.armsItself := by rwa [Activation.armsItself, ← hrt]
    have hstep : (g.resume v).step = g.step + 1 := rfl
    rcases callee_of_armsItself harms hcall with ⟨hk, hf⟩ | ⟨hk, hf⟩ | ⟨-, -, -, hk⟩
    · have h := hs2 hf ⟨g, rfl, harms⟩
      rw [armingInEnable, hen hf] at h
      rw [armingAtStep, hstep, hk]
      exact h
    · obtain ⟨h6, rfl⟩ := hst hf
      have h := hs3 hf ⟨g, rfl, harms, hk⟩
      rw [armingInStatus, h6] at h
      obtain ⟨n, m, q, hend⟩ := h
      obtain ⟨b, hb⟩ : ∃ b, f.loc.d = [b] := by
        simp only [Activation.localsSound, hf] at hloc
        exact List.length_eq_one_iff.1 (hloc (by omega))
      rw [armingAtStep, hstep, hk]
      exact ⟨n, m, q, by simpa [Activation.resume, firstByte, hb] using hend⟩
    · rw [armingAtStep, hstep]
      rcases hk with hk | hk | hk <;> rw [hk] <;> trivial
  · rintro - ⟨k, hk, harms⟩
    exact absurd harms (hbelow k hk)
  · rintro - ⟨k, hk, harms, -⟩
    exact absurd harms (hbelow k hk)

/-! ## Every move -/

/-- R131: every move keeps the arming invariant. -/
theorem Moves.armingSound {f : Activation} {r : List Activation} {s t : State} (hp : s.pc = f :: r)
    (hstack : stackSound s (f :: r)) (hs : s.armingSound) (h : Moves f r s t) : t.armingSound := by
  obtain ⟨-, hlink, -⟩ := stackSound_cons.1 hstack
  have hcall (g) (hg : g ∈ r.head?) : callee g.routine g.step = some f.routine := (hlink g hg).1
  have goesOn {t : State} {f' : Activation} (ht : t.pc = f' :: r) := armingSound_goesOn hp hcall hs ht
  have bystander {t : State} {f' : Activation} (ht : t.pc = f' :: r) (hrt : f'.routine = f.routine)
      (hf : f.routine ∉ [Routine.bulkErase, .writePage, .writeEnable, .readStatus]) : t.armingSound := by
    simp only [List.mem_cons, List.not_mem_nil, not_or, or_false] at hf
    obtain ⟨h1, h2, h3, h4⟩ := hf
    exact goesOn ht hrt (fun h => (h.elim h1 h2).elim) (fun h => absurd h h3) (fun h => absurd h h4)
  cases h with
  | waits => exact hs
  | fails | ends | endsPage | endsWithFlag => trivial
  | sends bytes i _ ho hd he =>
    rcases exec_decodedFrame_cases hp hd he with rfl | ⟨cnt, ok, -, htr, ht⟩
    · exact hs
    · exact armingSound_sends hp hcall hs ho hd htr ht
  | receives n cnt ok o data h => exact armingSound_receives hp hcall hs h rfl rfl
  | calls c l hc => exact armingSound_calls hp hs c l hc
  | returns v g r' hr hv =>
    subst hr
    refine armingSound_returns hp hstack hs (fun hf => ?_) fun hf => ?_ <;> simp_all
  | passes he hk =>
    exact goesOn rfl rfl (fun hf => armingAtStep_passes hf he hk) (fun hf => armingInEnable_passes hf he hk)
      (fun hf => armingInStatus_passes hf he hk)
  | builds hrt hk =>
    refine goesOn rfl rfl (fun _ harm => ?_) (by simp [hrt]) (by simp [hrt])
    exact armingAtStep_of_armed (armed_of_armingAtStep hrt (by omega) harm) (by simp [Activation.next, hk])
  | reads hrt hk =>
    refine goesOn rfl rfl (fun _ harm => ?_) (by simp [hrt]) (by simp [hrt])
    have harmed := armed_of_armingAtStep hrt (by omega) harm
    exact armingAtStep_of_armed (State.armed.of_sameCalls (s := s) rfl (by simp [SameCalls]) harmed)
      (by simp [Activation.next, hk])
  | ready hk =>
    rcases hk with ⟨hrt, hk⟩ | ⟨hrt, hk⟩ <;>
      exact goesOn rfl rfl (fun _ _ => armingAtStep_outside (by simp [Activation.next, hrt, hk])) (by simp [hrt]) (by simp [hrt])
  | delays _ hk =>
    rcases hk with ⟨hrt, hk, -⟩ | ⟨hrt, hk, -⟩ <;>
      exact goesOn rfl rfl (fun _ _ => armingAtStep_outside (by simp [Activation.next, hrt, hk])) (by simp [hrt]) (by simp [hrt])
  | spins hrt hk =>
    exact goesOn rfl rfl (fun _ _ => armingAtStep_outside (by simp [Activation.next, hrt, hk])) (by simp [hrt]) (by simp [hrt])
  | jumps k hk =>
    rcases hk with ⟨hrt, -, rfl, -⟩ | ⟨hrt, -, rfl, -⟩ | ⟨hrt, -, rfl⟩ | ⟨hrt, -, rfl⟩ <;>
      exact goesOn rfl rfl (fun _ _ => armingAtStep_outside (by simp [hrt])) (by simp [hrt]) (by simp [hrt])
  | latches hrt hk =>
    refine goesOn rfl rfl (by simp [Activation.armsItself, hrt]) (by simp [hrt]) (fun _ harm => ?_)
    rw [armingInStatus, hk] at harm
    rw [armingInStatus]
    simp only [Activation.next, hk]
    exact harm
  | cuts hrt | loops hrt | starts hrt =>
    rcases hrt with hrt | hrt <;> exact bystander rfl rfl (by simp [hrt])
  | measures hk | silent hk | reports hk | stores _ _ hk | advances hk =>
    rcases hk with ⟨hrt, -⟩ | ⟨hrt, -⟩ <;> exact bystander rfl rfl (by simp [hrt])
  | swaps hrt | toFF hrt | toEQ hrt | blank hrt | equal hrt => exact bystander rfl rfl (by simp [hrt])

/-- R70: every move keeps the write-class frames of the trace armed. -/
theorem Moves.writesArmed {f : Activation} {r : List Activation} {s t : State} (hp : s.pc = f :: r) (hs : s.armingSound)
    (hw : writesArmed s.cfg s.trace) (h : Moves f r s t) : writesArmed t.cfg t.trace := by
  cases h with
  | sends bytes i _ ho hd he =>
    rcases exec_decodedFrame_cases hp hd he with rfl | ⟨cnt, ok, hc, htr, -⟩
    · exact hw
    · rw [hc, htr]
      refine hw.snoc rfl fun bytes' csA csR n ok' j heq hd' hj => ?_
      cases heq
      cases hd.symm.trans hd'
      exact armed_of_outgoing hp hs ho hd hj
  | receives => exact hw.snoc rfl fun _ _ _ _ _ _ heq => by cases heq
  | _ => exact hw.of_sameCalls (s := s) rfl (by simp [SameCalls])

/-- Settles O42: reset, rejection and acceptance make no call and leave nothing to arm; every move of a sound stack keeps the arming
invariant, and that invariant arms each write-class frame at the step that sends it. -/
theorem writeClassFramesAreArmed : Obligations.WriteClassFramesAreArmed := by
  unfold Obligations.WriteClassFramesAreArmed
  intro s t hc hs hw h
  cases step_steps h with
  | resets => exact ⟨trivial, hw⟩
  | idles => exact ⟨hs, hw⟩
  | rejects => exact ⟨trivial, hw.of_sameCalls (s := s) rfl (by simp [SameCalls])⟩
  | accepts => exact ⟨⟨fun _ => trivial, trivial⟩, hw⟩
  | runs l f r _ _ hp hm =>
    have hstack : stackSound (s.withResetLine l) (f :: r) := hp ▸ controlSound_withResetLine hc l
    exact ⟨hm.armingSound (s := s.withResetLine l) hp hstack hs, hm.writesArmed (s := s.withResetLine l) hp hs hw⟩

end Sys2Proof.Machine
end

section
/-! What a step does to the byte-addressed spaces (R52, R58, R59): who writes `RBUF`, what a failure leaves of it, and the canonical form
of every space. -/

namespace Sys2Proof.Machine

/-! ## A step that raises an error -/

/-- R190, R198: at a step where the table has an error, the running activation raises it. -/
theorem runStep_of_errorAt {s : State} {f : Activation} {e : Error} (h : errorAt s.cfg f = some e) :
    runStep f s = .next (raise e s) := by
  obtain ⟨c, k, l⟩ := f
  unfold errorAt at h
  split at h
  case h_22 => cases h
  all_goals
    rename_i hc hk
    change c = _ at hc
    change k = _ at hk
    subst hc hk
    split at h <;> cases h
  case h_1 | h_2 | h_3 | h_4 | h_5 | h_6 | h_7 | h_8 | h_9 | h_10 => exact if_neg ‹_›
  all_goals exact if_pos ‹_›

/-- Settles O33: the step raises the error, and `RBUF` is then what `rbufAfterError` makes of it. -/
theorem failureKeepsTheRestOfRbuf : Obligations.FailureKeepsTheRestOfRbuf := by
  unfold Obligations.FailureKeepsTheRestOfRbuf
  intro s t f g r e hp hr hg hwf he h
  rw [step_running hp hr, runStep_of_errorAt he] at h
  cases h
  refine ⟨fun k hk => rbufAfterError_outside hwf hg e hk, fun hbefore => rbufAfterError_before ?_ s⟩
  rcases hbefore with rfl | rfl <;> rfl

/-! ## Who writes `RBUF` -/

/-- R59: the trace of `t` is that of `s` with a `MemWrite` next, and `RBUF` holds exactly that store. -/
def StoresInRbuf (s t : State) : Prop :=
  ∃ i v more, t.RBUF = s.RBUF.writeBytes i v ∧ t.trace = s.trace ++ .memWrite i v :: more

theorem xferWrite_RBUF (bytes : List Byte) (csA csR : Bool) (s : State) : (xferWrite bytes csA csR s).RBUF = s.RBUF := by
  rcases xferWrite_cases bytes csA csR s with hw | ⟨cnt, ok, data, o, -, hw⟩ <;> rw [hw]; rfl

/-- R59: a move leaves `RBUF`, or makes one `MemWrite` to it, or raises an error. -/
theorem Moves.rbuf_cases {f : Activation} {r : List Activation} {s t : State} (h : Moves f r s t) :
    t.RBUF = s.RBUF ∨ StoresInRbuf s t ∨ ∃ e, t = raise e s := by
  cases h with
  | sends bytes i _ _ hd he =>
    rw [exec_of_decodeFrame hd] at he
    cases he
    exact .inl (xferWrite_RBUF ..)
  | fails e => exact .inr (.inr ⟨e, rfl⟩)
  | stores i v => exact .inr (.inl ⟨i, v, [], rfl, rfl⟩)
  | endsPage => exact .inr (.inl ⟨0, f.loc.out, [.done .ok none none], rfl, by simp⟩)
  | _ => exact .inl rfl

/-- Settles O47: a running block's step is a move, which leaves the host's side alone and `RBUF` but for one store or an error. -/
theorem buffersAreWrittenByMemWriteOnly : Obligations.BuffersAreWrittenByMemWriteOnly := by
  unfold Obligations.BuffersAreWrittenByMemWriteOnly
  intro s t hp hr h
  obtain ⟨f, r, hp⟩ := List.exists_cons_of_ne_nil hp
  obtain ⟨l, hm⟩ := moves_of_step hp hr h
  obtain ⟨-, hwbuf, -, -⟩ := hm.keepsHostSide
  refine ⟨hwbuf, ?_⟩
  rcases hm.rbuf_cases with hb | hb | ⟨e, rfl⟩
  · exact .inl hb
  · exact .inr (.inl hb)
  · exact .inr (.inr ⟨e, none, some false, rfl⟩)

/-! ## Canonical form -/

/-- The flash behind the transport, where there is one, is in canonical form. -/
def Oracle.flashCanonical : Oracle → Prop
  | .script _ => True
  | .device d => d.flash.wf

theorem memoriesCanonical_iff (s : State) :
    s.memoriesCanonical ↔ s.WBUF.wf ∧ s.RBUF.wf ∧ s.oracle.flashCanonical := by
  unfold State.memoriesCanonical Oracle.flashCanonical
  cases s.oracle <;> rfl

/-- R66, R72: no frame takes the device's flash out of canonical form. -/
theorem Device.command_flash_wf {c : Cfg} {frame : List Byte} {d e : Device} (hd : d.flash.wf)
    (h : d.command c frame = some e) : e.flash.wf := by
  unfold Device.command at h
  split at h
  · cases h; exact hd
  · cases h; exact hd
  · cases h
    split_ifs
    · exact ⟨List.Pairwise.nil, fun _ h => by cases h⟩
    · exact hd
  · split_ifs at h <;> cases h
    · exact Memory.writeBytes_wf hd _ _
    · exact hd
  · cases h

/-- R66: a read phase leaves the flash. -/
theorem Device.readPhase_flash {c : Cfg} {k n : Nat} {d e : Device} {data : List Byte}
    (h : d.readPhase c k n = some (data, e)) : e.flash = d.flash := by
  unfold Device.readPhase at h
  split at h
  · split_ifs at h; cases h
    unfold Device.afterStatus
    split <;> rfl
  · split_ifs at h; cases h; rfl
  · split_ifs at h; cases h; rfl
  · cases h

theorem Device.respond_flash_wf {c : Cfg} {k : Nat} {q : Call} {d e : Device} {a : Answer} (hd : d.flash.wf)
    (h : d.respond c k q = some (a, e)) : e.flash.wf := by
  unfold Device.respond at h
  cases q with
  | write bytes csA csR =>
    simp only at h
    split at h
    · obtain ⟨e', he', heq⟩ := Option.map_eq_some_iff.1 h
      cases heq
      have he : e'.flash.wf := Device.command_flash_wf hd he'
      exact he
    · cases h
      exact hd
  | read n csA csR =>
    simp only at h
    split at h
    · obtain ⟨⟨data, e'⟩, he', heq⟩ := Option.map_eq_some_iff.1 h
      cases heq
      exact (Device.readPhase_flash he').symm ▸ hd
    · cases h

/-- R56: no call takes the flash out of canonical form. -/
theorem Oracle.answer_flashCanonical {c : Cfg} {k : Nat} {q : Call} {o o' : Oracle} {a : Answer} (ho : o.flashCanonical)
    (h : o.answer c k q = (a, o')) : o'.flashCanonical := by
  unfold Oracle.answer at h
  split at h
  · cases h; trivial
  · cases h; trivial
  · split at h
    · cases h; exact Device.respond_flash_wf ho (by assumption)
    · cases h; trivial

theorem Oracle.forget_flashCanonical (b : Bool) (o : Oracle) : (o.forget b).flashCanonical := by
  unfold Oracle.forget
  split <;> trivial

/-- R59: every way in which a move writes `RBUF` keeps it canonical. -/
theorem Moves.rbuf_wf {f : Activation} {r : List Activation} {s t : State} (hs : s.RBUF.wf) (h : Moves f r s t) : t.RBUF.wf := by
  rcases h.rbuf_cases with hb | ⟨i, v, more, hb, -⟩ | ⟨e, rfl⟩
  · exact hb ▸ hs
  · exact hb ▸ Memory.writeBytes_wf hs i v
  · exact rbufAfterError_wf hs e

/-- R56: a move asks the oracle at most one call. -/
theorem Moves.oracle_flashCanonical {f : Activation} {r : List Activation} {s t : State} (hs : s.oracle.flashCanonical)
    (h : Moves f r s t) : t.oracle.flashCanonical := by
  cases h with
  | sends bytes i _ _ hd he =>
    rw [exec_of_decodeFrame hd] at he
    cases he
    rcases xferWrite_cases bytes true (shapeA i) s with hw | ⟨cnt, ok, data, o, ho, hw⟩ <;> rw [hw]
    · exact hs
    · exact Oracle.answer_flashCanonical hs ho
  | receives n cnt ok o data _ ho => exact Oracle.answer_flashCanonical hs ho
  | _ => exact hs

theorem State.taken_WBUF_wf {s : State} (hs : s.WBUF.wf) (c : Command) (rest : List Command) : (s.taken c rest).WBUF.wf := by
  rw [State.taken_WBUF]
  split
  · exact Memory.ofBytes_wf _
  · exact hs

/-- Settles O39: reset draws a range of `RBUF` and forgets the device, a command may bring a new `WBUF`, and a move keeps each space
canonical. -/
theorem stepKeepsMemoriesCanonical : Obligations.StepKeepsMemoriesCanonical := by
  unfold Obligations.StepKeepsMemoriesCanonical
  intro s t hs h
  rw [memoriesCanonical_iff] at hs ⊢
  obtain ⟨hw, hr, ho⟩ := hs
  cases step_steps h with
  | resets l =>
    refine ⟨hw, drawOperation_wf (s := s.withResetLine l) hr, ?_⟩
    rcases hp : s.pc with _ | ⟨f, r⟩
    · rwa [assertReset_oracle_idle (s := s.withResetLine l) hp]
    · rw [assertReset_oracle_running (s := s.withResetLine l) hp]
      exact Oracle.forget_flashCanonical ..
  | idles => exact ⟨hw, hr, ho⟩
  | rejects l c rest => exact ⟨State.taken_WBUF_wf hw c rest, rbufAfterError_wf (s := (s.withResetLine l).taken c rest) hr _, ho⟩
  | accepts l c rest => exact ⟨State.taken_WBUF_wf hw c rest, hr, ho⟩
  | runs l f r _ _ _ hm =>
    obtain ⟨-, hwbuf, -, -⟩ := hm.keepsHostSide
    exact ⟨hwbuf ▸ hw, hm.rbuf_wf (s := s.withResetLine l) hr, hm.oracle_flashCanonical (s := s.withResetLine l) ho⟩

end Sys2Proof.Machine
end

section
/-! The reference device (R66, R72, 95_test_vectors.md section 0): what it makes of each frame it receives whole. -/

namespace Sys2Proof.Machine

/-! ## Erased and programmed -/

/-- R72: the device that begins an erase: every byte reads as the erased sentinel. -/
def Device.erased (d : Device) : Device := ({ d with flash := { fill := some 0xFF, cells := [] } } : Device).start d.ke

/-- R72: the device that begins to program `payload` at `a`. -/
def Device.programmed (a : Nat) (payload : List Byte) (d : Device) : Device :=
  ({ d with flash := d.flash.writeBytes a payload } : Device).start d.kp

/-- R66: an idle device whose latch is set takes a write-class command, and no other does. -/
theorem Device.takesWrite_iff (d : Device) : d.takesWrite = true ↔ d.busy = 0 ∧ d.wel = true := by
  simp [Device.takesWrite, and_comm]

@[simp] theorem Device.erased_read (d : Device) (k : Nat) : d.erased.flash.read k = some 0xFF := rfl

theorem Device.programmed_read {d : Device} (h : d.flash.wf) (a k : Nat) (payload : List Byte) :
    (d.programmed a payload).flash.read k =
      if a ≤ k ∧ k < a + payload.length then payload[k - a]? else d.flash.read k :=
  Memory.read_writeBytes h a k payload

/-! ## The frames -/

theorem Device.command_wren (c : Cfg) (d : Device) : d.command c [opWren] = some { d with wel := true } := rfl

theorem Device.command_wrdi (c : Cfg) (d : Device) : d.command c [opWrdi] = some { d with wel := false } := rfl

theorem Device.command_be (c : Cfg) (d : Device) : d.command c [opBe] = some (if d.takesWrite then d.erased else d) := rfl

theorem Device.command_pp {c : Cfg} {a : BitVec 24} {payload : List Byte} (h : a.toNat + payload.length ≤ c.CAPACITY)
    (d : Device) :
    d.command c (ppFrame a payload) = some (if d.takesWrite then d.programmed a.toNat payload else d) := by
  rw [Device.command, decodeFrame_ppFrame]
  exact if_pos h

/-- R55: a frame of shape A is the whole transaction, so the device takes it with the call. -/
theorem Oracle.answer_device_write {c : Cfg} {k : Nat} {d e : Device} {bytes : List Byte} (h : d.command c bytes = some e) :
    (Oracle.device d).answer c k (.write bytes true true) =
      (.returned bytes.length true [], .device { e with held := [] }) := by
  simp [Oracle.answer, Device.respond, h]

/-- R80: a frame of shape A on the reference device. -/
theorem exec_oracle_device {s : State} {d e : Device} {i : Instr} {bytes : List Byte} (ho : s.oracle = .device d)
    (hd : decodeFrame bytes = .ok i) (hi : shapeA i = true) (he : d.command s.cfg bytes = some e) :
    ∃ t, exec i s = .next t ∧ t.oracle = .device { e with held := [] } := by
  refine ⟨_, exec_of_decodeFrame hd s, ?_⟩
  simp [hi, xferWrite, ho, Oracle.answer_device_write he]

/-- Settles O13: by the device's answer to each of the four frames, with and without the latch. -/
theorem referenceDeviceTakesTheFrames : Obligations.ReferenceDeviceTakesTheFrames := by
  unfold Obligations.ReferenceDeviceTakesTheFrames
  intro s d ho
  refine ⟨exec_oracle_device ho (bytes := [opWren]) rfl rfl (d.command_wren _),
    exec_oracle_device ho (bytes := [opWrdi]) rfl rfl (d.command_wrdi _), fun hb hw => ?_, fun hb hw hwf a payload ha => ?_,
    fun hno => ?_⟩
  · have he := d.command_be s.cfg
    rw [if_pos (d.takesWrite_iff.2 ⟨hb, hw⟩)] at he
    obtain ⟨t, hx, ht⟩ := exec_oracle_device ho rfl rfl he
    exact ⟨t, _, hx, ht, rfl, rfl, d.erased_read⟩
  · have he := Device.command_pp ha d
    rw [if_pos (d.takesWrite_iff.2 ⟨hb, hw⟩)] at he
    obtain ⟨t, hx, ht⟩ := exec_oracle_device ho (decodeFrame_ppFrame a payload) rfl he
    exact ⟨t, _, hx, ht, rfl, rfl, fun k => Device.programmed_read hwf a.toNat k payload⟩
  · have hno : ¬d.takesWrite = true := by
      rw [d.takesWrite_iff]
      rintro ⟨hb, hw⟩
      simp [hb, hw] at hno
    refine ⟨exec_oracle_device ho (bytes := [opBe]) rfl rfl ?_, fun a payload ha =>
      exec_oracle_device ho (decodeFrame_ppFrame a payload) rfl ?_⟩
    · rw [Device.command_be, if_neg hno]
    · rw [Device.command_pp ha, if_neg hno]

end Sys2Proof.Machine
end

section
/-! Runs against any oracle (R53 to R56, R110): `Serves` says that the oracle answers the calls of a trace as the trace shows, and each
routine then runs through its numbered steps with that trace. A script and the reference device both come under it. -/

namespace Sys2Proof.Machine

/-! ## What the oracle answers -/

/-- R56: asked for the calls of `acts` in order, the first of them as its call number `k`, the oracle answers each as `acts` shows, and
is `o'` afterwards. -/
def Oracle.Serves (c : Cfg) : Nat → Oracle → List Action → Oracle → Prop
  | _, o, [], o' => o' = o
  | k, o, .write bytes csA csR cnt ok :: acts, o' =>
    ∃ data o₁, o.answer c k (.write bytes csA csR) = (.returned cnt ok data, o₁) ∧ Serves c (k + 1) o₁ acts o'
  | k, o, .read n csA csR d cnt ok :: acts, o' =>
    ∃ data o₁, o.answer c k (.read n csA csR) = (.returned cnt ok data, o₁) ∧ readData k n data = d ∧
      Serves c (k + 1) o₁ acts o'
  | k, o, .delay _ :: acts, o' | k, o, .emit _ :: acts, o' | k, o, .memRead _ _ :: acts, o' => Serves c k o acts o'
  | k, o, .memWrite _ _ :: acts, o' | k, o, .done _ _ _ :: acts, o' => Serves c k o acts o'

/-- The calls of two traces in a row are served one after the other. -/
theorem Oracle.serves_append {c : Cfg} {k : Nat} {o o'' : Oracle} {acts more : List Action} :
    o.Serves c k (acts ++ more) o'' ↔
      ∃ o', o.Serves c k acts o' ∧ o'.Serves c (k + (calls acts).length) more o'' := by
  induction acts generalizing k o with
  | nil => simp [Oracle.Serves]
  | cons a acts ih =>
    cases a with
    | write | read =>
      simp only [List.cons_append, Oracle.Serves, ih, calls_cons, isCall_write, isCall_read, if_true, List.length_cons,
        Nat.add_right_comm k _ 1, ← Nat.add_assoc]
      grind
    | _ => simpa [Oracle.Serves] using ih

/-- R54: a script serves a status read by its two answers. -/
theorem Reading.serves_script (q : Reading) (c : Cfg) (k : Nat) (rest : List Answer) :
    (Oracle.script (q.answers ++ rest)).Serves c k q.actions (.script rest) :=
  ⟨[], _, rfl, [q.byte], _, rfl, readData_of_length (k + 1) [q.byte], rfl⟩

/-- R134: a script serves a page read. -/
theorem ReadRun.serves_script (q : ReadRun) (c : Cfg) (k : Nat) (a : BitVec 32) (rest : List Answer) :
    (Oracle.script (q.answers ++ rest)).Serves c k (q.actions a) (.script rest) := by
  rw [ReadRun.answers, List.append_assoc, ReadRun.actions, Oracle.serves_append]
  exact ⟨_, q.entry.serves_script c k _, [], _, rfl, q.data, _, rfl, readData_of_length _ q.data, rfl⟩

/-! ## The state after some actions -/

/-- The state in which the actions `acts` have been made: the oracle is `o`, the line `l`, the working registers `x`. -/
def State.ran (s : State) (acts : List Action) (o : Oracle) (l : Line) (x : Regs) : State :=
  { s with trace := s.trace ++ acts, calls := s.calls + (Machine.calls acts).length, oracle := o, chipSelect := l, x := x }

theorem State.ran_ran (s : State) (acts acts' : List Action) (o o' : Oracle) (l l' : Line) (x x' : Regs) :
    (s.ran acts o l x).ran acts' o' l' x' = s.ran (acts ++ acts') o' l' x' := by
  simp [State.ran, Nat.add_assoc]

@[simp] theorem State.ran_cfg (s : State) (acts : List Action) (o : Oracle) (l : Line) (x : Regs) :
    (s.ran acts o l x).cfg = s.cfg := rfl
@[simp] theorem State.ran_x (s : State) (acts : List Action) (o : Oracle) (l : Line) (x : Regs) :
    (s.ran acts o l x).x = x := rfl
@[simp] theorem State.ran_oracle (s : State) (acts : List Action) (o : Oracle) (l : Line) (x : Regs) :
    (s.ran acts o l x).oracle = o := rfl
@[simp] theorem State.ran_chipSelect (s : State) (acts : List Action) (o : Oracle) (l : Line) (x : Regs) :
    (s.ran acts o l x).chipSelect = l := rfl
@[simp] theorem State.ran_calls (s : State) (acts : List Action) (o : Oracle) (l : Line) (x : Regs) :
    (s.ran acts o l x).calls = s.calls + (Machine.calls acts).length := rfl
@[simp] theorem State.ran_trace (s : State) (acts : List Action) (o : Oracle) (l : Line) (x : Regs) :
    (s.ran acts o l x).trace = s.trace ++ acts := rfl
@[simp] theorem State.ran_resetLine (s : State) (acts : List Action) (o : Oracle) (l : Line) (x : Regs) :
    (s.ran acts o l x).resetLine = s.resetLine := rfl

/-- R58: what `WBUF` shows stays the same through an operation. -/
@[simp] theorem wbufBytes_ran (s : State) (acts : List Action) (o : Oracle) (l : Line) (x : Regs) (i n : Nat) :
    wbufBytes i n (s.ran acts o l x) = wbufBytes i n s := rfl

@[simp] theorem wbufBytes_withX (s : State) (x : Regs) (i n : Nat) : wbufBytes i n (s.withX x) = wbufBytes i n s := rfl

/-! ## One step -/

theorem Runs.of_eq {s t : State} (h : s = t) : Runs s t := h ▸ Runs.refl s

/-- One step of the running activation. -/
theorem Runs.one {s u : State} {f : Activation} {r : List Activation} (hr : s.resetLine = [])
    (h : runStep f (s.withPc (f :: r)) = .next u) : Runs (s.withPc (f :: r)) u :=
  Runs.step rfl hr h (Runs.refl u)

/-- R80: a frame is sent and its call returns. -/
theorem runs_send {s : State} {f : Activation} {r : List Activation} {bytes : List Byte} {i : Instr} {cnt : Nat} {ok : Bool}
    {data : List Byte} {o : Oracle} (hr : s.resetLine = []) (hf : f.outgoing = some bytes) (hd : decodeFrame bytes = .ok i)
    (ho : s.oracle.answer s.cfg s.calls (.write bytes true (shapeA i)) = (.returned cnt ok data, o)) :
    Runs (s.withPc (f :: r))
      ((s.ran [.write bytes true (shapeA i) cnt ok] o (s.chipSelect.after true (shapeA i) ok) s.x).withPc
        (f.next { f.loc with cnt := cnt, ok := ok } :: r)) := by
  refine Runs.one hr ?_
  simp only [runStep, hf, hd, exec_of_decodeFrame hd, xferWrite, State.withPc_oracle, State.withPc_cfg, State.withPc_calls, ho]
  rfl

/-- R55: a read phase returns. -/
theorem runs_receive {s : State} {f : Activation} {r : List Activation} {n cnt : Nat} {ok : Bool} {data : List Byte} {o : Oracle}
    (hr : s.resetLine = []) (hf : ∀ u, runStep f u = readPhase n u)
    (ho : s.oracle.answer s.cfg s.calls (.read n false true) = (.returned cnt ok data, o)) :
    Runs (s.withPc (f :: r))
      ((s.ran [.read n false true (readData s.calls n data) cnt ok] o (s.chipSelect.afterRead n false true ok) s.x).withPc
        (f.next { f.loc with d := readData s.calls n data, cnt := cnt, ok := ok } :: r)) := by
  refine Runs.one hr ?_
  simp only [hf, readPhase, xferRead, State.withPc_oracle, State.withPc_cfg, State.withPc_calls, ho]
  rfl

/-- A step that changes nothing but the step number. -/
theorem runs_advance {s : State} {f : Activation} {r : List Activation} (hr : s.resetLine = [])
    (h : runStep f (s.withPc (f :: r)) = .next (s.withPc (f :: r)).advance) :
    Runs (s.withPc (f :: r)) (s.withPc (f.next f.loc :: r)) := Runs.one hr h

/-- A step that makes one action, which is no call. -/
theorem runs_log {s : State} {f : Activation} {r : List Activation} {l : Locals} {a : Action} (hr : s.resetLine = [])
    (ha : a.isCall = false) (h : runStep f (s.withPc (f :: r)) = .next ((s.log a).withPc (f.next l :: r))) :
    Runs (s.withPc (f :: r)) ((s.ran [a] s.oracle s.chipSelect s.x).withPc (f.next l :: r)) :=
  (Runs.one hr h).trans (.of_eq (by simp [State.ran, State.log, State.withPc, ha]))

/-- R30: a routine that returns at top level ends its operation. -/
theorem runs_top {s : State} {f : Activation} {v : Returned} {value : Option Byte} (hr : s.resetLine = [])
    (h : runStep f (s.withPc [f]) = .next (returnWith v value (s.withPc [f]))) :
    Runs (s.withPc [f]) (finish .ok value none s) := by
  rw [returnWith_top rfl] at h
  exact Runs.one hr h

/-- R30: a routine that returns to its caller. -/
theorem runs_return {s : State} {f g : Activation} {r : List Activation} {v : Returned} {value : Option Byte}
    (hr : s.resetLine = []) (h : runStep f (s.withPc (f :: g :: r)) = .next (returnWith v value (s.withPc (f :: g :: r)))) :
    Runs (s.withPc (f :: g :: r)) (s.withPc (g.resume v :: r)) := by
  rw [returnWith_nested rfl] at h
  exact Runs.one hr h

/-! ## Transactions (R55) -/

/-- Shape A: the frame is sent with success, and the check of its result passes. -/
theorem runs_shapeA {s : State} {c : Routine} {k : Nat} {l : Locals} {r : List Activation} {bytes : List Byte} {i : Instr}
    {cnt : Nat} {o : Oracle} (hr : s.resetLine = []) (hf : (⟨c, k, l⟩ : Activation).outgoing = some bytes)
    (hd : decodeFrame bytes = .ok i) (hi : shapeA i = true) (hcheck : ∀ l u, runStep ⟨c, k + 1, l⟩ u = checkOk l u)
    (ho : s.oracle.Serves s.cfg s.calls [.write bytes true true cnt true] o) :
    Runs (s.withPc (⟨c, k, l⟩ :: r))
      ((s.ran [.write bytes true true cnt true] o .released s.x).withPc (⟨c, k + 2, { l with cnt := cnt, ok := true }⟩ :: r)) := by
  obtain ⟨data, o, ho, rfl⟩ := ho
  have hsend := runs_send (r := r) hr hf hd (by rw [hi]; exact ho)
  rw [hi] at hsend
  exact hsend.trans (runs_advance hr (hcheck _ _))

/-- Shape B: the header is sent, the read phase returns, and the checks of both results pass. -/
theorem runs_shapeB {s : State} {c : Routine} {k n : Nat} {l : Locals} {r : List Activation} {bytes : List Byte} {i : Instr}
    {sent cnt : Nat} {d : List Byte} {o : Oracle} (hr : s.resetLine = [])
    (hf : (⟨c, k, l⟩ : Activation).outgoing = some bytes) (hd : decodeFrame bytes = .ok i) (hi : shapeA i = false)
    (hcheck : ∀ l u, runStep ⟨c, k + 1, l⟩ u = checkOk l u ∧ runStep ⟨c, k + 3, l⟩ u = checkOk l u)
    (hread : ∀ u, runStep ⟨c, k + 2, { l with cnt := sent, ok := true }⟩ u = readPhase n u)
    (ho : s.oracle.Serves s.cfg s.calls [.write bytes true false sent true, .read n false true d cnt true] o) :
    Runs (s.withPc (⟨c, k, l⟩ :: r))
      ((s.ran [.write bytes true false sent true, .read n false true d cnt true] o
        (if n = 0 then .unknown else .released) s.x).withPc (⟨c, k + 4, { l with d := d, cnt := cnt, ok := true }⟩ :: r)) := by
  obtain ⟨data, o₁, ho, data', o₂, ho', rfl, rfl⟩ := ho
  have hsend := runs_send (r := r) hr hf hd (by rw [hi]; exact ho)
  rw [hi] at hsend
  have hread := runs_receive (s := s.ran [.write bytes true false sent true] o₁ .asserted s.x) (r := r) hr hread ho'
  rw [State.ran_ran] at hread
  exact (hsend.trans (runs_advance hr (hcheck _ _).1)).trans (hread.trans (runs_advance hr (hcheck _ _).2))

/-! ## The status read -/

/-- R111: `READ_STATUS`, from its step 1 to its return, leaves the byte in `STATUS` and in hand. -/
theorem runs_readStatus {s : State} {l : Locals} {r : List Activation} {q : Reading} {o : Oracle} (hr : s.resetLine = [])
    (ho : s.oracle.Serves s.cfg s.calls q.actions o) :
    Runs (s.withPc (⟨.readStatus, 1, l⟩ :: r))
      ((s.ran q.actions o .released { s.x with STATUS := q.byte }).withPc
        (⟨.readStatus, 6, { l with d := [q.byte], cnt := q.got, ok := true }⟩ :: r)) :=
  (runs_shapeB (n := 1) hr rfl rfl rfl (fun _ _ => ⟨rfl, rfl⟩) (fun _ => rfl) ho).trans (Runs.one hr rfl)

/-- R168: a routine that calls `READ_STATUS` goes on with the byte. -/
theorem runs_callStatus {s : State} {c : Routine} {k : Nat} {l : Locals} {r : List Activation} {q : Reading} {o : Oracle}
    (hr : s.resetLine = []) (hcall : ∀ u, runStep ⟨c, k, l⟩ u = .next (u.call .readStatus {}))
    (ho : s.oracle.Serves s.cfg s.calls q.actions o) :
    Runs (s.withPc (⟨c, k, l⟩ :: r))
      ((s.ran q.actions o .released { s.x with STATUS := q.byte }).withPc (⟨c, k + 1, { l with s := q.byte }⟩ :: r)) :=
  ((Runs.one hr (hcall _)).trans (runs_readStatus hr ho)).trans (runs_return (v := .byte q.byte) hr rfl)

/-- R130: the entry check of the three operations that make one. -/
theorem runs_checkNotBusy {s : State} {c : Routine} {k : Nat} {l : Locals} {r : List Activation} (hr : s.resetLine = [])
    (hcheck : ∀ l u, runStep ⟨c, k, l⟩ u = checkNotBusy l u) (hb : busy l.s = false) :
    Runs (s.withPc (⟨c, k, l⟩ :: r)) (s.withPc (⟨c, k + 1, l⟩ :: r)) := by
  refine runs_advance hr ?_
  rw [hcheck, checkNotBusy, hb]
  rfl

/-! ## `READ_PAGE` -/

/-- R194: the count that was asked for passes. -/
theorem checkCount_pass {n : Nat} {l : Locals} (h : l.cnt = n) (s : State) : checkCount n l s = .next s.advance := by
  simp [checkCount, h]

/-- R134: `READ_PAGE`, from its step 1 to its return, has the bytes received in hand, each through `swz`. -/
theorem runs_readPage {s : State} {l : Locals} {r : List Activation} {q : ReadRun} {o : Oracle} (hr : s.resetLine = [])
    (hq : q.good l.n) (ho : s.oracle.Serves s.cfg s.calls (q.actions l.a) o) :
    Runs (s.withPc (⟨.readPage, 1, l⟩ :: r))
      ((s.ran (q.actions l.a) o (if l.n = 0 then .unknown else .released) { s.x with STATUS := q.entry.byte }).withPc
        (⟨.readPage, 9, { l with s := q.entry.byte, cnt := l.n, ok := true, d := q.data, out := q.data.map (swz s.cfg) }⟩ :: r)) := by
  obtain ⟨hbusy, hlen⟩ := hq
  obtain ⟨o₁, ho₁, ho₂⟩ := Oracle.serves_append.1 ho
  have hentry := runs_callStatus (c := .readPage) (k := 1) (l := l) (r := r) hr (fun _ => rfl) ho₁
  have hready := runs_checkNotBusy (s := s.ran q.entry.actions o₁ .released { s.x with STATUS := q.entry.byte }) (r := r)
    (c := .readPage) (k := 2) (l := { l with s := q.entry.byte }) hr (fun _ _ => rfl) hbusy
  have hdata := runs_shapeB (s := s.ran q.entry.actions o₁ .released { s.x with STATUS := q.entry.byte }) (r := r)
    (c := .readPage) (k := 3) (l := { l with s := q.entry.byte }) hr rfl (decodeFrame_readFrame _) rfl
    (fun _ _ => ⟨rfl, rfl⟩) (fun _ => by rw [hlen]; rfl) ho₂
  rw [State.ran_ran, hlen] at hdata
  rw [ReadRun.actions, hlen]
  refine (hentry.trans hready).trans (hdata.trans ?_)
  exact Runs.step rfl hr (checkCount_pass rfl _) (Runs.step rfl hr rfl (Runs.refl _))

/-- Settles O21: an accepted `READ_PAGE` runs to its step 9, whose store and completion end it. -/
theorem readPageStoresTheBytes : Obligations.ReadPageStoresTheBytes := by
  unfold Obligations.ReadPageStoresTheBytes
  intro s a n q rest hp hr hn hq ho
  have hruns := runs_readPage (l := readPageArgs (a.setWidth 32) n.toNat) (r := []) hr hq
    (ho ▸ q.serves_script s.cfg s.calls (a.setWidth 32) rest)
  refine ⟨_, .of_runs (acceptPage_of_idle hp hn _) (by simp) (hruns.trans (Runs.one hr rfl)) rfl, ?_, rfl, rfl,
    if_congr (by simp [readPageArgs, BitVec.toNat_eq]) rfl rfl, rfl⟩
  exact ⟨rfl, rfl, by simp, by simp, by simp [returnPage, readPageArgs], rfl, rfl, rfl, rfl⟩

/-! ## The reference device -/

/-- R66, R72: the device after a status read: the countdown has gone on, and the latch is cleared where it ends. -/
def Device.polled (d : Device) : Device :=
  { d with busy := d.busy - 1, wel := d.wel && decide (d.busy ≠ 1), held := [] }

theorem Device.afterStatus_eq (d : Device) :
    d.afterStatus = { d with busy := d.busy - 1, wel := d.wel && decide (d.busy ≠ 1) } := by
  obtain ⟨flash, wel, busy, ke, kp, id, held⟩ := d
  cases busy <;> simp [Device.afterStatus]

/-- R97: a status read of the device, in full count, with the byte it shows. -/
def Device.reading (d : Device) : Reading := ⟨1, 1, d.statusByte⟩

/-- R66, R97: the device serves a status read. -/
theorem Device.serves_reading (c : Cfg) (k : Nat) (d : Device) :
    (Oracle.device d).Serves c k d.reading.actions (.device d.polled) :=
  ⟨[], _, rfl, [d.statusByte], _, rfl, readData_of_length (k + 1) [d.statusByte],
    congrArg Oracle.device (by simp [Device.afterStatus_eq, Device.polled])⟩

@[simp] theorem Device.busy_statusByte (d : Device) : Machine.busy d.statusByte = decide (d.busy ≠ 0) := by
  unfold Device.statusByte
  split_ifs <;> simp_all <;> decide

@[simp] theorem Device.wel_statusByte (d : Device) : Machine.wel d.statusByte = d.wel := by
  unfold Device.statusByte
  split_ifs <;> simp_all <;> decide

/-- R97: the device shows its reserved status bits clear. -/
theorem Device.statusByte_reserved (d : Device) : d.statusByte &&& 0xFC = 0 := by
  unfold Device.statusByte
  split_ifs <;> decide

/-- Settles O49: `READ_STATUS` runs to its return with the byte the device shows. -/
theorem referenceDeviceShowsItsStatus : Obligations.ReferenceDeviceShowsItsStatus := by
  unfold Obligations.ReferenceDeviceShowsItsStatus
  intro s d hp hr ho
  have hruns := runs_readStatus (l := {}) (r := []) hr (ho ▸ d.serves_reading s.cfg s.calls)
  have hend := hruns.trans (runs_top (v := .byte d.statusByte) (value := some d.statusByte) hr rfl)
  refine ⟨_, d.statusByte, .of_runs (accept_of_idle hp _ _) (by simp) hend rfl, ?_, by simp, by simp, d.statusByte_reserved, rfl⟩
  exact ⟨rfl, rfl, by simp, by simp, by simp [Device.reading, Reading.actions], rfl, rfl, rfl, rfl⟩

end Sys2Proof.Machine
end

section
/-! The runs of `WRITE_PAGE` and of the two chunk loops (R131, R133, R135, R160, R162, R163, R166), against any oracle that serves their
calls. -/

namespace Sys2Proof.Machine

/-! ## `WRITE_PAGE` -/

/-- R168: a routine that calls `WRITE_ENABLE` goes on. -/
theorem runs_callEnable {s : State} {c : Routine} {k n : Nat} {l : Locals} {r : List Activation} {o : Oracle}
    (hr : s.resetLine = []) (hcall : ∀ u, runStep ⟨c, k, l⟩ u = .next (u.call .writeEnable {}))
    (ho : s.oracle.Serves s.cfg s.calls [enableCall n true] o) :
    Runs (s.withPc (⟨c, k, l⟩ :: r)) ((s.ran [enableCall n true] o .released s.x).withPc (⟨c, k + 1, l⟩ :: r)) :=
  ((Runs.one hr (hcall _)).trans (runs_shapeA (i := .wren) hr rfl rfl rfl (fun _ _ => rfl) ho)).trans
    (runs_return (v := .void) hr rfl)

/-- R131: the confirmation passes. -/
theorem runs_checkArmed {s : State} {c : Routine} {k : Nat} {l : Locals} {r : List Activation} (hr : s.resetLine = [])
    (hcheck : ∀ l u, runStep ⟨c, k, l⟩ u = checkArmed l u) (hb : confirmFails s.cfg l.s = false) :
    Runs (s.withPc (⟨c, k, l⟩ :: r)) (s.withPc (⟨c, k + 1, l⟩ :: r)) := by
  refine runs_advance hr ?_
  rw [hcheck, checkArmed, State.withPc_cfg, hb]
  rfl

/-- R130, R131: the entry check, the enable and the confirmation, the same steps 1 to 5 of `BULK_ERASE` and `WRITE_PAGE`. -/
theorem runs_arming {s : State} {c : Routine} {l : Locals} {r : List Activation} {q : Arming} {o : Oracle}
    (hc : c = .bulkErase ∨ c = .writePage) (hr : s.resetLine = []) (hq : q.good s.cfg)
    (ho : s.oracle.Serves s.cfg s.calls q.actions o) :
    Runs (s.withPc (⟨c, 1, l⟩ :: r))
      ((s.ran q.actions o .released { s.x with STATUS := q.confirm.byte }).withPc
        (⟨c, 6, { l with s := q.confirm.byte }⟩ :: r)) := by
  obtain ⟨hbusy, hconfirm⟩ := hq
  obtain ⟨o₁, ho₁, ho₂⟩ := Oracle.serves_append.1 ho
  obtain ⟨o₂, ho₂, ho₃⟩ := (Oracle.serves_append (acts := [enableCall q.enable true])).1 ho₂
  refine Runs.trans (runs_callStatus hr (fun _ => by rcases hc with rfl | rfl <;> rfl) ho₁) ?_
  refine Runs.trans (runs_checkNotBusy hr (fun _ _ => by rcases hc with rfl | rfl <;> rfl) hbusy) ?_
  refine Runs.trans (runs_callEnable hr (fun _ => by rcases hc with rfl | rfl <;> rfl) ho₂) ?_
  refine Runs.trans (runs_callStatus hr (fun _ => by rcases hc with rfl | rfl <;> rfl) ho₃) ?_
  refine Runs.trans (runs_checkArmed hr (fun _ _ => by rcases hc with rfl | rfl <;> rfl) hconfirm) (.of_eq ?_)
  simp [State.ran_ran, Arming.actions]

/-- R135: the wait loop of `WRITE_PAGE`: it polls until a status read shows the device ready. -/
theorem runs_pagePolls {s : State} {l : Locals} {r : List Activation} {q : Polls} {o : Oracle} (hr : s.resetLine = [])
    (hq : q.good) (ho : s.oracle.Serves s.cfg s.calls (q.readings.flatMap Reading.actions) o) :
    Runs (s.withPc (⟨.writePage, 12, l⟩ :: r))
      ((s.ran (q.readings.flatMap Reading.actions) o .released { s.x with STATUS := q.last.byte }).withPc
        (⟨.writePage, 14, { l with s := q.last.byte }⟩ :: r)) := by
  obtain ⟨polls, last⟩ := q
  induction polls generalizing s l with
  | nil =>
    obtain ⟨-, hready⟩ := hq
    simp only [Polls.readings, List.nil_append, List.flatMap_singleton] at ho ⊢
    refine Runs.trans (runs_callStatus hr (fun _ => rfl) ho) ?_
    refine runs_advance hr (if_neg ?_)
    simpa using hready
  | cons q polls ih =>
    obtain ⟨hbusy, hready⟩ := hq
    simp only [Polls.readings, List.cons_append, List.flatMap_cons] at ho ⊢
    obtain ⟨o₁, ho₁, ho₂⟩ := Oracle.serves_append.1 ho
    refine Runs.trans (runs_callStatus hr (fun _ => rfl) ho₁) ?_
    refine Runs.trans (Runs.one hr (if_pos (hbusy q (by simp)))) ?_
    refine Runs.trans (ih (s := s.ran q.actions o₁ .released { s.x with STATUS := q.byte }) hr
      ⟨fun p hp => hbusy p (by simp [hp]), hready⟩ ho₂) (.of_eq ?_)
    simp [State.ran_ran, Polls.readings]

/-- R133, steps 6 to 11: the chunk is read, its frame built and sent in full, and the settle time waited. -/
theorem runs_program {s : State} {l : Locals} {r : List Activation} {o : Oracle} (hr : s.resetLine = [])
    (ho : s.oracle.Serves s.cfg s.calls
      [.memRead l.i l.n, .write (programFrame s.cfg l.a (wbufBytes l.i l.n s)) true true (4 + l.n) true,
        .delay s.cfg.T_PAGE_SETTLE] o) :
    Runs (s.withPc (⟨.writePage, 6, l⟩ :: r))
      ((s.ran [.memRead l.i l.n, .write (programFrame s.cfg l.a (wbufBytes l.i l.n s)) true true (4 + l.n) true,
        .delay s.cfg.T_PAGE_SETTLE] o .released s.x).withPc (⟨.writePage, 12, { l with
          chunk := wbufBytes l.i l.n s, frame := programFrame s.cfg l.a (wbufBytes l.i l.n s), cnt := 4 + l.n, ok := true }⟩ :: r)) := by
  refine Runs.trans (runs_log (l := { l with chunk := wbufBytes l.i l.n s }) hr rfl rfl) ?_
  refine Runs.trans (Runs.one hr rfl) ?_
  refine Runs.trans (runs_shapeA (s := s.ran [.memRead l.i l.n] s.oracle s.chipSelect s.x) (c := .writePage) (k := 8)
    (l := { l with chunk := wbufBytes l.i l.n s, frame := programFrame s.cfg l.a (wbufBytes l.i l.n s) }) hr rfl
    (decodeFrame_ppFrame _ _) rfl (fun _ _ => rfl) ho) ?_
  refine Runs.trans (runs_advance hr (checkCount_pass rfl _)) ?_
  refine Runs.trans (runs_log hr rfl rfl) (.of_eq ?_)
  simp [State.ran_ran, Activation.next]

/-- R133: `WRITE_PAGE`, from its step 1 to its return: the chunk is that of `WBUF` at the activation's index. -/
theorem runs_writePage {s : State} {l : Locals} {r : List Activation} {q : PageRun} {o : Oracle} (hr : s.resetLine = [])
    (hq : q.good s.cfg) (ho : s.oracle.Serves s.cfg s.calls (q.actions s.cfg l.a l.i (wbufBytes l.i l.n s)) o) :
    ∃ l', Runs (s.withPc (⟨.writePage, 1, l⟩ :: r))
      ((s.ran (q.actions s.cfg l.a l.i (wbufBytes l.i l.n s)) o .released { s.x with STATUS := q.polls.last.byte }).withPc
        (⟨.writePage, 14, l'⟩ :: r)) := by
  obtain ⟨harm, hpolls⟩ := hq
  have hlen : (wbufBytes l.i l.n s).length = l.n := readWbuf_length ..
  simp only [PageRun.actions, hlen, List.append_assoc] at ho ⊢
  obtain ⟨o₁, ho₁, ho⟩ := Oracle.serves_append.1 ho
  obtain ⟨o₂, ho₂, ho₃⟩ := Oracle.serves_append.1 ho
  refine ⟨{ l with
    s := q.polls.last.byte, chunk := wbufBytes l.i l.n s, frame := programFrame s.cfg l.a (wbufBytes l.i l.n s),
    cnt := 4 + l.n, ok := true }, Runs.trans (runs_arming (.inr rfl) hr harm ho₁) ?_⟩
  refine Runs.trans (runs_program hr ho₂) ?_
  refine Runs.trans (runs_pagePolls hr hpolls ho₃) (.of_eq ?_)
  simp [State.ran_ran]

/-! ## The chunk loops -/

/-- R161, R162, R163, steps 1 and 2: a request that fits passes the size check, and the registers start. -/
theorem runs_loopStart {s : State} {c : Routine} {l : Locals} {r : List Activation} (hc : c = .writeAll ∨ c = .readAll)
    (hr : s.resetLine = []) (hlen : l.len ≤ s.cfg.CAPACITY) :
    Runs (s.withPc (⟨c, 1, l⟩ :: r)) ((s.withX (startRegs l.len s.x)).withPc (⟨c, 3, l⟩ :: r)) := by
  have hsize (u : State) : runStep ⟨c, 1, l⟩ u = checkSize l u := by rcases hc with rfl | rfl <;> rfl
  have hstart (u : State) : runStep ⟨c, 2, l⟩ u = .next (u.withX (startRegs l.len u.x)).advance := by
    rcases hc with rfl | rfl <;> rfl
  exact Runs.trans (runs_advance hr ((hsize _).trans (if_neg (Nat.not_lt.2 hlen)))) (Runs.one hr (hstart _))

/-- R162, R163, steps 3 and 4: while something remains the next chunk is cut. -/
theorem runs_cutChunk {s : State} {c : Routine} {l : Locals} {r : List Activation} (hc : c = .writeAll ∨ c = .readAll)
    (hr : s.resetLine = []) (hx : s.x.REMAIN ≠ 0) :
    Runs (s.withPc (⟨c, 3, l⟩ :: r)) (s.withPc (⟨c, 5, { l with n := chunkLength s.cfg s.x.REMAIN }⟩ :: r)) := by
  have htest (u : State) : runStep ⟨c, 3, l⟩ u = loopTest u := by rcases hc with rfl | rfl <;> rfl
  have hcut (u : State) : runStep ⟨c, 4, l⟩ u = cutChunk u := by rcases hc with rfl | rfl <;> rfl
  exact Runs.trans (runs_advance hr ((htest _).trans (if_neg hx))) (Runs.one hr (hcut _))

/-- R162, R163, step 3: with nothing left the loop returns. -/
theorem runs_loopEnd {s : State} {c : Routine} {l : Locals} (hc : c = .writeAll ∨ c = .readAll) (hr : s.resetLine = [])
    (hx : s.x.REMAIN = 0) : Runs (s.withPc [⟨c, 3, l⟩]) (finish .ok none none s) := by
  have htest (u : State) : runStep ⟨c, 3, l⟩ u = loopTest u := by rcases hc with rfl | rfl <;> rfl
  exact runs_top (v := .void) hr ((htest _).trans (if_pos hx))

/-- R166: the report of the percentage `p`: an event where it has changed. -/
def reportActions (x : Regs) (p : Nat) : List Action :=
  if p = x.LASTPCT.toNat then [] else [.emit (.progress (BitVec.ofNat 7 p))]

/-- R166: the registers after a report of the percentage. -/
def Regs.reported (x : Regs) : Regs := { x with LASTPCT := BitVec.ofNat 7 (percent x.DONE.toNat x.TOTAL.toNat) }

/-- R166: the three steps that end an iteration of a chunk loop: measure, report, back to the top. -/
theorem runs_report {s : State} {c : Routine} {k : Nat} {l : Locals} {r : List Activation} (hr : s.resetLine = [])
    (hmeasure : ∀ u, runStep ⟨c, k, l⟩ u = calcPercent u) (hreport : ∀ l u, runStep ⟨c, k + 1, l⟩ u = reportProgress l u)
    (hback : ∀ l u, runStep ⟨c, k + 2, l⟩ u = .next (u.goto 3)) :
    Runs (s.withPc (⟨c, k, l⟩ :: r))
      ((s.ran (reportActions s.x (percent s.x.DONE.toNat s.x.TOTAL.toNat)) s.oracle s.chipSelect s.x.reported).withPc
        (⟨c, 3, { l with p := percent s.x.DONE.toNat s.x.TOTAL.toNat }⟩ :: r)) := by
  refine Runs.trans (Runs.one hr (hmeasure _)) ?_
  by_cases hp : percent s.x.DONE.toNat s.x.TOTAL.toNat = s.x.LASTPCT.toNat
  · refine Runs.trans (runs_advance hr ((hreport _ _).trans (if_neg (not_not.2 hp)))) ?_
    refine Runs.trans (Runs.one hr (hback _ _)) (.of_eq ?_)
    simp [reportActions, Regs.reported, hp, Activation.next, State.ran, State.goto, State.mapTop, State.withPc]
  · refine Runs.trans (Runs.one hr ((hreport _ _).trans (if_pos hp))) ?_
    refine Runs.trans (Runs.one hr (hback _ _)) (.of_eq ?_)
    simp [reportActions, Regs.reported, hp, State.ran, State.goto, State.mapTop, State.withPc]

/-- R162, R163: the registers after a chunk of `n` bytes whose page operation has left `status` in `STATUS`. -/
def Regs.afterChunk (x : Regs) (n : Nat) (status : Byte) : Regs := (nextChunkRegs n { x with STATUS := status }).reported

/-- R166: the report that ends the chunk. -/
def chunkReport (x : Regs) (n : Nat) : List Action :=
  reportActions x (percent (nextChunkRegs n x).DONE.toNat x.TOTAL.toNat)

/-- R160, R166: the local values of a chunk loop after a chunk of `n` bytes. -/
def Locals.afterChunk (l : Locals) (x : Regs) (n : Nat) : Locals :=
  { l with n := n, p := percent (nextChunkRegs n x).DONE.toNat x.TOTAL.toNat }

/-- R162, R163: the steps that end an iteration of a chunk loop: the registers go on, then the report. -/
theorem runs_nextChunk {s : State} {c : Routine} {k : Nat} {l : Locals} {r : List Activation} (hr : s.resetLine = [])
    (hnext : ∀ l u, runStep ⟨c, k, l⟩ u = .next (u.withX (nextChunkRegs l.n u.x)).advance)
    (hmeasure : ∀ l u, runStep ⟨c, k + 1, l⟩ u = calcPercent u)
    (hreport : ∀ l u, runStep ⟨c, k + 2, l⟩ u = reportProgress l u)
    (hback : ∀ l u, runStep ⟨c, k + 3, l⟩ u = .next (u.goto 3)) :
    Runs (s.withPc (⟨c, k, l⟩ :: r))
      ((s.ran (chunkReport s.x l.n) s.oracle s.chipSelect (nextChunkRegs l.n s.x).reported).withPc
        (⟨c, 3, l.afterChunk s.x l.n⟩ :: r)) :=
  Runs.trans (Runs.one hr (hnext _ _))
    (runs_report (s := s.withX (nextChunkRegs l.n s.x)) hr (hmeasure _) hreport hback)

/-- R162: one iteration of `WRITE_ALL`: the next chunk is programmed by a page run that ends `Ok`. -/
theorem runs_writeChunk {s : State} {l : Locals} {r : List Activation} {n : Nat} {q : PageRun} {o : Oracle}
    (hr : s.resetLine = []) (hx : s.x.REMAIN ≠ 0) (hn : n = chunkLength s.cfg s.x.REMAIN) (hq : q.good s.cfg)
    (ho : s.oracle.Serves s.cfg s.calls (q.actions s.cfg s.x.ADDR s.x.DONE.toNat (wbufBytes s.x.DONE.toNat n s)) o) :
    Runs (s.withPc (⟨.writeAll, 3, l⟩ :: r))
      ((s.ran (q.actions s.cfg s.x.ADDR s.x.DONE.toNat (wbufBytes s.x.DONE.toNat n s) ++ chunkReport s.x n) o .released
        (s.x.afterChunk n q.polls.last.byte)).withPc (⟨.writeAll, 3, l.afterChunk s.x n⟩ :: r)) := by
  obtain ⟨lp, hpage⟩ := runs_writePage (l := writePageArgs s.x.ADDR s.x.DONE.toNat n)
    (r := ⟨.writeAll, 5, { l with n := n }⟩ :: r) hr hq ho
  refine Runs.trans (runs_cutChunk (.inl rfl) hr hx) (Runs.trans (Runs.one hr rfl) ?_)
  rw [← hn]
  refine Runs.trans hpage (Runs.trans (runs_return (v := .void) hr rfl) ?_)
  refine Runs.trans (runs_nextChunk hr (fun _ _ => rfl) (fun _ _ => rfl) (fun _ _ => rfl) (fun _ _ => rfl)) (.of_eq ?_)
  rw [State.ran_ran]
  rfl

theorem State.ran_withRbuf (s : State) (acts : List Action) (o : Oracle) (l : Line) (x : Regs) (m : Memory) :
    (s.ran acts o l x).withRbuf m = (s.withRbuf m).ran acts o l x := rfl

/-- R163, step 6, sink `TO_RBUF`: the chunk in hand is stored. -/
theorem runs_storeChunk {s : State} {l : Locals} {r : List Activation} (hr : s.resetLine = []) (hsink : l.sink = .toRbuf) :
    Runs (s.withPc (⟨.readAll, 6, l⟩ :: r))
      (((s.withRbuf (s.RBUF.writeBytes s.x.DONE.toNat l.out)).ran [.memWrite s.x.DONE.toNat l.out] s.oracle s.chipSelect
        s.x).withPc (⟨.readAll, 7, l⟩ :: r)) := by
  have hstore (u : State) : disposeChunk l u = memWrite u.x.DONE.toNat l.out u := by rw [disposeChunk, hsink]
  have hstep (u : State) : runStep ⟨.readAll, 6, l⟩ u = .next (memWrite u.x.DONE.toNat l.out u).advance := by
    rw [← hstore]
    rfl
  exact Runs.one hr (hstep _)

/-- R163, sink `TO_RBUF`: one iteration of `READ_ALL`: the next chunk is read by a page run that ends `Ok`, and stored. -/
theorem runs_readChunk {s : State} {l : Locals} {r : List Activation} {n : Nat} {q : ReadRun} {o : Oracle}
    (hr : s.resetLine = []) (hsink : l.sink = .toRbuf) (hx : s.x.REMAIN ≠ 0) (hn : n = chunkLength s.cfg s.x.REMAIN)
    (hq : q.good n) (ho : s.oracle.Serves s.cfg s.calls (q.actions s.x.ADDR) o) :
    Runs (s.withPc (⟨.readAll, 3, l⟩ :: r))
      (((s.withRbuf (s.RBUF.writeBytes s.x.DONE.toNat (q.data.map (swz s.cfg)))).ran
        (q.actions s.x.ADDR ++ .memWrite s.x.DONE.toNat (q.data.map (swz s.cfg)) :: chunkReport s.x n) o
        (if n = 0 then .unknown else .released) (s.x.afterChunk n q.entry.byte)).withPc
          (⟨.readAll, 3, { l with out := q.data.map (swz s.cfg) }.afterChunk s.x n⟩ :: r)) := by
  refine Runs.trans (runs_cutChunk (.inr rfl) hr hx) (Runs.trans (Runs.one hr rfl) ?_)
  rw [← hn]
  refine Runs.trans (runs_readPage (l := readPageArgs s.x.ADDR n) hr hq ho) ?_
  refine Runs.trans (runs_return (v := .bytes (q.data.map (swz s.cfg))) (value := none) hr rfl) ?_
  refine Runs.trans (runs_storeChunk hr hsink) ?_
  refine Runs.trans (runs_nextChunk hr (fun _ _ => rfl) (fun _ _ => rfl) (fun _ _ => rfl) (fun _ _ => rfl)) (.of_eq ?_)
  simp only [State.ran_withRbuf, State.ran_ran, List.append_assoc]
  rfl

end Sys2Proof.Machine
end

section
/-! R61, R250, 95_test_vectors.md T2: the two chunk loops on the reference device, and the round trip of a buffer through it. -/

namespace Sys2Proof.Machine

/-! ## What the device serves -/

/-- R66: the device is not busy and its flash is `m`. -/
def Device.restsWith (m : Memory) (d : Device) : Prop := d.busy = 0 ∧ d.flash = m

/-- R72, R135: however long its countdown, the device serves a wait loop to its end. -/
theorem Device.serves_polls (c : Cfg) (k : Nat) (d : Device) :
    ∃ (q : Polls) (e : Device), q.good ∧
      (Oracle.device d).Serves c k (q.readings.flatMap Reading.actions) (.device e) ∧ e.restsWith d.flash := by
  induction hb : d.busy generalizing k d with
  | zero =>
    refine ⟨⟨[], d.reading⟩, d.polled, ⟨by simp, by simp [Device.reading, hb]⟩, ?_, by simp [Device.polled, hb], rfl⟩
    simpa [Polls.readings] using d.serves_reading c k
  | succ n ih =>
    obtain ⟨q, e, ⟨hbusy, hlast⟩, hserves, hrests⟩ := ih (k + (calls d.reading.actions).length) d.polled
      (by simp [Device.polled, hb])
    refine ⟨⟨d.reading :: q.busy, q.last⟩, e, ⟨?_, hlast⟩, ?_, hrests⟩
    · simpa [Device.reading, hb] using hbusy
    · exact Oracle.serves_append.2 ⟨_, d.serves_reading c k, hserves⟩

/-- R66, R131: the idle device serves the arming of a write-class operation, and takes its frame then. -/
theorem Device.serves_arming {c : Cfg} {k : Nat} {m : Memory} {d : Device} (hd : d.restsWith m) :
    ∃ (q : Arming) (e : Device), q.good c ∧ (Oracle.device d).Serves c k q.actions (.device e) ∧ e.takesWrite = true ∧
      e.flash = m := by
  obtain ⟨hb, rfl⟩ := hd
  have hwren := Oracle.answer_device_write (k := k + (calls d.reading.actions).length) (d.polled.command_wren c)
  refine ⟨⟨d.reading, 1, ({ d.polled with wel := true } : Device).reading⟩, ({ d.polled with wel := true } : Device).polled,
    ⟨by simp [Device.reading, hb], by simp [Device.reading, confirmFails]⟩, ?_, ?_, rfl⟩
  · exact Oracle.serves_append.2 ⟨_, d.serves_reading c k, [], _, hwren, Device.serves_reading _ _ _⟩
  · simp [Device.takesWrite, Device.polled, hb]

theorem ppFrame_length (a : BitVec 24) (payload : List Byte) : (ppFrame a payload).length = 4 + payload.length := by
  simp [ppFrame, addrBytes]
  omega

/-- R133: the idle device serves a `WRITE_PAGE` inside its capacity, and is idle again with the chunk in its flash. -/
theorem Device.serves_writePage {c : Cfg} {k i : Nat} {m : Memory} {d : Device} {a : BitVec 32} {chunk : List Byte}
    (hd : d.restsWith m) (ha : (frameAddr a).toNat + chunk.length ≤ c.CAPACITY) :
    ∃ (q : PageRun) (e : Device), q.good c ∧ (Oracle.device d).Serves c k (q.actions c a i chunk) (.device e) ∧
      e.restsWith (m.writeBytes (frameAddr a).toNat (chunk.map (swz c))) := by
  obtain ⟨arm, e, harm, hserves, htakes, rfl⟩ := Device.serves_arming (c := c) (k := k) hd
  have hpp := Device.command_pp (payload := chunk.map (swz c)) (by simpa using ha) e
  rw [if_pos htakes] at hpp
  have hsent := Oracle.answer_device_write (k := k + (calls arm.actions).length) hpp
  rw [ppFrame_length, List.length_map] at hsent
  obtain ⟨polls, e', hpolls, hserves', hrests⟩ := Device.serves_polls c (k + (calls arm.actions).length + 1)
    { e.programmed (frameAddr a).toNat (chunk.map (swz c)) with held := [] }
  refine ⟨⟨arm, polls⟩, e', ⟨harm, hpolls⟩, ?_, hrests⟩
  rw [PageRun.actions, List.append_assoc]
  exact Oracle.serves_append.2 ⟨_, hserves, [], _, hsent, hserves'⟩

/-- R55: the read phase of a header the device holds gives the bytes of its flash. -/
theorem Device.respond_read {c : Cfg} {k : Nat} {d : Device} {a : BitVec 24} {data : List Byte} (hheld : d.held = readFrame a)
    (ha : a.toNat + data.length ≤ c.CAPACITY) (hdata : ∀ j < data.length, d.flash.read (a.toNat + j) = data[j]?) :
    (Oracle.device d).answer c k (.read data.length false true) =
      (.returned data.length true data, .device { d with held := [] }) := by
  have hbytes : (List.range data.length).map (fun j => (d.flash.read (a.toNat + j)).getD (Config.freeData k j)) = data :=
    List.ext_getElem (by simp) fun j _ hj => by simp [hdata j hj, hj]
  simp [Oracle.answer, Device.respond, Device.readPhase, hheld, decodeFrame_readFrame, ha, hbytes]

/-- R134: the idle device serves a `READ_PAGE` inside its capacity with the bytes of its flash, and stays as it was. -/
theorem Device.serves_readPage {c : Cfg} {k : Nat} {m : Memory} {d : Device} {a : BitVec 32} {data : List Byte}
    (hd : d.restsWith m) (ha : (frameAddr a).toNat + data.length ≤ c.CAPACITY)
    (hdata : ∀ j < data.length, m.read ((frameAddr a).toNat + j) = data[j]?) :
    ∃ (q : ReadRun) (e : Device), q.good data.length ∧ q.data = data ∧
      (Oracle.device d).Serves c k (q.actions a) (.device e) ∧ e.restsWith m := by
  obtain ⟨hb, rfl⟩ := hd
  refine ⟨⟨d.reading, 4, data⟩, d.polled, ⟨by simp [Device.reading, hb], rfl⟩, rfl, ?_, by simp [Device.polled, hb], rfl⟩
  refine Oracle.serves_append.2 ⟨_, d.serves_reading c k, [], _, rfl, data, _, ?_, readData_of_length _ data, rfl⟩
  exact Device.respond_read rfl ha hdata

/-! ## Bytes and buffers -/

theorem getLsbD_moveBit (b : Byte) (k i : Nat) {j : Nat} (hj : j < 8) :
    (moveBit b k j).getLsbD i = (decide (i = j) && b.getLsbD k) := by
  unfold moveBit
  split_ifs with h
  · by_cases hi : i = j
    · simp [hi, h, hj]
    · simp [hi]
      omega
  · simp [h]

/-- R145: the bits change places end for end. -/
theorem getLsbD_rev8 (b : Byte) {i : Nat} (hi : i < 8) : (rev8 b).getLsbD i = b.getLsbD (7 - i) := by
  interval_cases i <;> simp [rev8, getLsbD_moveBit, -BitVec.getLsbD_eq_getElem]

@[simp] theorem rev8_rev8 (b : Byte) : rev8 (rev8 b) = b := by
  refine BitVec.eq_of_getLsbD_eq fun i hi => ?_
  rw [getLsbD_rev8 _ hi, getLsbD_rev8 _ (by omega), Nat.sub_sub_self (by omega)]

/-- R10: what is programmed through `swz` is read back through it. -/
@[simp] theorem swz_swz (c : Cfg) (b : Byte) : swz c (swz c b) = b := by
  unfold swz
  split_ifs <;> simp

theorem Memory.writeBytes_append (m : Memory) (a : Nat) (bytes more : List Byte) :
    m.writeBytes a (bytes ++ more) = (m.writeBytes a bytes).writeBytes (a + bytes.length) more := by
  induction bytes generalizing m a with
  | nil => rfl
  | cons b r ih => simp [Memory.writeBytes, ih, Nat.add_assoc, Nat.add_comm 1]

/-- R61: consecutive chunks of `WBUF`. -/
theorem wbufBytes_split {i n k : Nat} (h : n ≤ k) (s : State) :
    wbufBytes i k s = wbufBytes i n s ++ wbufBytes (i + n) (k - n) s := by
  unfold wbufBytes
  rw [← readWbuf_append, Nat.add_sub_cancel' h]

/-- R61: a sequence stored in two parts. -/
theorem Memory.writeBytes_drop (m : Memory) {i n : Nat} {b : List Byte} (h : i + n ≤ b.length) :
    m.writeBytes i (b.drop i) = (m.writeBytes i ((b.drop i).take n)).writeBytes (i + n) (b.drop (i + n)) := by
  have hlen : ((b.drop i).take n).length = n := by
    simp
    omega
  calc m.writeBytes i (b.drop i) = m.writeBytes i ((b.drop i).take n ++ (b.drop i).drop n) := by
        rw [List.take_append_drop]
    _ = (m.writeBytes i ((b.drop i).take n)).writeBytes (i + n) (b.drop (i + n)) := by
        rw [Memory.writeBytes_append, hlen, List.drop_drop]

/-! ## The registers of an iteration -/

/-- R37, R160: an iteration takes a chunk that is not empty, at the flash address `DONE`, and within the request. -/
theorem loopInvariant_chunk {c : Cfg} (hc : c.wf) {x : Regs} (h : x.loopInvariant c) (hx : x.REMAIN ≠ 0) {n : Nat}
    (hn : n = chunkLength c x.REMAIN) :
    0 < n ∧ n ≤ x.REMAIN.toNat ∧ x.DONE.toNat + n ≤ c.CAPACITY ∧ (frameAddr x.ADDR).toNat = x.DONE.toNat := by
  subst hn
  have hle := (chunkLength_cases c x.REMAIN).1
  obtain ⟨hda, hsum, hcap, -⟩ := h
  obtain ⟨hpacket, -, hmax⟩ := hc
  have hpos : 0 < x.REMAIN.toNat := Nat.pos_of_ne_zero fun h0 => hx (BitVec.eq_of_toNat_eq h0)
  refine ⟨lt_min hpos hpacket, hle, by omega, ?_⟩
  rw [hda, frameAddr, BitVec.toNat_setWidth, Nat.mod_eq_of_lt (by omega)]

/-- R37, R162, R163: after the chunk the registers have gone on by its length. -/
theorem loopInvariant_afterChunk {c : Cfg} (hc : c.wf) {x : Regs} (h : x.loopInvariant c) (hx : x.REMAIN ≠ 0) {n : Nat}
    (hn : n = chunkLength c x.REMAIN) (status : Byte) :
    (x.afterChunk n status).loopInvariant c ∧ (x.afterChunk n status).DONE.toNat = x.DONE.toNat + n ∧
      (x.afterChunk n status).REMAIN.toNat = x.REMAIN.toNat - n := by
  subst hn
  have hnext := loopInvariant_nextChunkRegs hc h hx
  have hle := (chunkLength_cases c x.REMAIN).1
  obtain ⟨-, hsum, hcap, -⟩ := h
  exact ⟨hnext, toNat_ofNat_of_le_capacity hc (n := x.DONE.toNat + _) (by omega),
    toNat_ofNat_of_le_capacity hc (n := x.REMAIN.toNat - _) (by omega)⟩

/-! ## The two loops -/

theorem State.ran_nil (s : State) : s.ran [] s.oracle s.chipSelect s.x = s := by simp [State.ran]

/-- R162: from the top of its loop `WRITE_ALL` programs what remains of `WBUF` into the idle device. -/
theorem runs_writeLoop {s : State} {l : Locals} {r : List Activation} {m : Memory} {d : Device} (hc : s.cfg.wf)
    (hr : s.resetLine = []) (hinv : s.x.loopInvariant s.cfg) (ho : s.oracle = .device d) (hd : d.restsWith m) :
    ∃ (acts : List Action) (e : Device) (line : Line) (x' : Regs) (l' : Locals),
      Runs (s.withPc (⟨.writeAll, 3, l⟩ :: r)) ((s.ran acts (.device e) line x').withPc (⟨.writeAll, 3, l'⟩ :: r)) ∧
      x'.REMAIN = 0 ∧
      e.restsWith (m.writeBytes s.x.DONE.toNat ((wbufBytes s.x.DONE.toNat s.x.REMAIN.toNat s).map (swz s.cfg))) := by
  induction hk : s.x.REMAIN.toNat using Nat.strong_induction_on generalizing s l m d with | _ k ih
  subst hk
  by_cases hx : s.x.REMAIN = 0
  · refine ⟨[], d, s.chipSelect, s.x, l, .of_eq ?_, hx, by simpa [hx, wbufBytes, readWbuf, Memory.writeBytes] using hd⟩
    rw [← ho, State.ran_nil]
  · obtain ⟨n, hn⟩ : ∃ n, n = chunkLength s.cfg s.x.REMAIN := ⟨_, rfl⟩
    obtain ⟨hpos, hle, hcap, haddr⟩ := loopInvariant_chunk hc hinv hx hn
    have hlen : (wbufBytes s.x.DONE.toNat n s).length = n := readWbuf_length ..
    obtain ⟨q, e, hq, hserves, he⟩ := Device.serves_writePage (c := s.cfg) (k := s.calls) (i := s.x.DONE.toNat)
      (a := s.x.ADDR) (chunk := wbufBytes s.x.DONE.toNat n s) hd (by rw [haddr, hlen]; exact hcap)
    obtain ⟨hinv', hdone, hremain⟩ := loopInvariant_afterChunk hc hinv hx hn q.polls.last.byte
    have hchunk := runs_writeChunk (l := l) (r := r) hr hx hn hq (by rw [ho]; exact hserves)
    obtain ⟨acts, e', line, x', l', hruns, hend, hrests⟩ := ih _ (by simp only [State.ran_x]; omega)
      (s := s.ran _ (.device e) .released (s.x.afterChunk n q.polls.last.byte)) hc hr hinv' rfl he rfl
    rw [State.ran_ran] at hruns
    refine ⟨_, e', line, x', l', Runs.trans hchunk hruns, hend, ?_⟩
    rw [wbufBytes_split hle, List.map_append, Memory.writeBytes_append, List.length_map, hlen]
    simpa [hdone, hremain, haddr] using hrests

/-- R163: from the top of its loop `READ_ALL` stores what remains of the bytes `b` that the idle device holds through `swz`. -/
theorem runs_readLoop {s : State} {l : Locals} {r : List Activation} {m : Memory} {d : Device} {b : List Byte} (hc : s.cfg.wf)
    (hr : s.resetLine = []) (hsink : l.sink = .toRbuf) (hinv : s.x.loopInvariant s.cfg) (ho : s.oracle = .device d)
    (hd : d.restsWith m) (hb : b.length = s.x.DONE.toNat + s.x.REMAIN.toNat)
    (hm : ∀ j < b.length, m.read j = (b.map (swz s.cfg))[j]?) :
    ∃ (acts : List Action) (o : Oracle) (line : Line) (x' : Regs) (l' : Locals),
      Runs (s.withPc (⟨.readAll, 3, l⟩ :: r))
        (((s.withRbuf (s.RBUF.writeBytes s.x.DONE.toNat (b.drop s.x.DONE.toNat))).ran acts o line x').withPc
          (⟨.readAll, 3, l'⟩ :: r)) ∧ x'.REMAIN = 0 := by
  induction hk : s.x.REMAIN.toNat using Nat.strong_induction_on generalizing s l d with | _ k ih
  subst hk
  by_cases hx : s.x.REMAIN = 0
  · refine ⟨[], s.oracle, s.chipSelect, s.x, l, .of_eq ?_, hx⟩
    rw [List.drop_of_length_le (by simp [hb, hx])]
    exact congrArg (State.withPc · _) (s.ran_nil).symm
  · obtain ⟨n, hn⟩ : ∃ n, n = chunkLength s.cfg s.x.REMAIN := ⟨_, rfl⟩
    obtain ⟨hpos, hle, hcap, haddr⟩ := loopInvariant_chunk hc hinv hx hn
    have hlen : (((b.drop s.x.DONE.toNat).take n).map (swz s.cfg)).length = n := by simp; omega
    obtain ⟨q, e, hq, hdata, hserves, he⟩ := Device.serves_readPage (c := s.cfg) (k := s.calls) (a := s.x.ADDR)
      (data := ((b.drop s.x.DONE.toNat).take n).map (swz s.cfg)) hd (by rw [haddr, hlen]; exact hcap) fun j hj => by
        rw [hlen] at hj
        rw [haddr, hm _ (by omega)]
        simp [hj]
    rw [hlen] at hq
    have hout : q.data.map (swz s.cfg) = (b.drop s.x.DONE.toNat).take n := by simp [hdata, Function.comp_def]
    obtain ⟨hinv', hdone, hremain⟩ := loopInvariant_afterChunk hc hinv hx hn q.entry.byte
    have hchunk := runs_readChunk (l := l) (r := r) hr hsink hx hn hq (by rw [ho]; exact hserves)
    rw [if_neg hpos.ne', hout] at hchunk
    obtain ⟨acts, o, line, x', l', hruns, hend⟩ := ih _ (by simp only [State.ran_x]; omega)
      (s := (s.withRbuf (s.RBUF.writeBytes s.x.DONE.toNat ((b.drop s.x.DONE.toNat).take n))).ran _ (.device e) .released
        (s.x.afterChunk n q.entry.byte))
      (l := { l with out := (b.drop s.x.DONE.toNat).take n }.afterChunk s.x n) hc hr hsink hinv' rfl he
      (by simp only [State.ran_x]; omega) hm rfl
    rw [State.ran_withRbuf, State.ran_ran, State.ran_x, hdone] at hruns
    rw [Memory.writeBytes_drop _ (n := n) (by omega)]
    exact ⟨_, o, line, x', l', Runs.trans hchunk hruns, hend⟩

/-! ## The round trip -/

/-- R162: on the idle reference device `WRITE_ALL` ends `Ok` and has programmed the request's bytes from address 0. -/
theorem completes_writeAll {s : State} {m : Memory} {d : Device} {len : BitVec 32} (hp : s.pc = []) (hr : s.resetLine = [])
    (hc : s.cfg.wf) (ho : s.oracle = .device d) (hd : d.restsWith m) (hlen : len.toNat ≤ s.cfg.CAPACITY) :
    ∃ (t : State) (e : Device), Completes (.writeAll len) s t ∧ t.RESULT = Result.ok.code ∧ t.pc = [] ∧ t.resetLine = [] ∧
      t.cfg = s.cfg ∧ t.RBUF = s.RBUF ∧ t.oracle = .device e ∧
      e.restsWith (m.writeBytes 0 ((wbufBytes 0 len.toNat s).map (swz s.cfg))) := by
  obtain ⟨hinv, htotal⟩ := loopInvariant_startRegs hc hlen s.x
  obtain ⟨acts, e, line, x', l', hruns, hend, hrests⟩ :=
    runs_writeLoop (s := s.withX (startRegs len.toNat s.x)) (l := { len := len.toNat }) (r := []) hc hr hinv ho hd
  have hall := Runs.trans (runs_loopStart (l := { len := len.toNat }) (.inl rfl) hr hlen)
    (Runs.trans hruns (runs_loopEnd (.inl rfl) hr hend))
  refine ⟨_, e, .of_runs (accept_of_idle hp _ _) (by simp) hall rfl, rfl, rfl, hr, rfl, rfl, rfl, ?_⟩
  simpa [startRegs, Nat.mod_eq_of_lt len.isLt] using hrests

/-- R163: on the idle reference device that holds the bytes `b` from address 0, each through `swz`, `READ_ALL` of their number
ends `Ok` and has stored them from index 0. -/
theorem completes_readAll {s : State} {m : Memory} {d : Device} {len : BitVec 32} {b : List Byte} (hp : s.pc = [])
    (hr : s.resetLine = []) (hc : s.cfg.wf) (ho : s.oracle = .device d) (hd : d.restsWith m) (hb : b.length = len.toNat)
    (hlen : len.toNat ≤ s.cfg.CAPACITY) (hm : ∀ j < b.length, m.read j = (b.map (swz s.cfg))[j]?) :
    ∃ u : State, Completes (.readAll len) s u ∧ u.RESULT = Result.ok.code ∧ u.RBUF = s.RBUF.writeBytes 0 b := by
  obtain ⟨hinv, htotal⟩ := loopInvariant_startRegs hc hlen s.x
  obtain ⟨acts, o, line, x', l', hruns, hend⟩ :=
    runs_readLoop (s := s.withX (startRegs len.toNat s.x)) (l := readAllArgs len.toNat .toRbuf) (r := []) hc hr rfl hinv ho hd
      (by simpa [startRegs, Nat.mod_eq_of_lt len.isLt] using hb) hm
  have hall := Runs.trans (runs_loopStart (l := readAllArgs len.toNat .toRbuf) (.inr rfl) hr hlen)
    (Runs.trans hruns (runs_loopEnd (.inr rfl) hr hend))
  exact ⟨_, .of_runs (accept_of_idle hp _ _) (by simp) hall rfl, rfl, rfl⟩

/-- Settles O29: `WRITE_ALL` leaves the bytes of `WBUF` in the flash through `swz`, and `READ_ALL` undoes that on its way to `RBUF`. -/
theorem roundTripOnTheReferenceDevice : Obligations.RoundTripOnTheReferenceDevice := by
  unfold Obligations.RoundTripOnTheReferenceDevice
  intro s d len hp hr hc hrbuf ho hflash hbusy hlen
  obtain ⟨t, e, hwrite, hok, hpt, hrt, hct, hrbuft, hot, hrests⟩ := completes_writeAll hp hr hc ho ⟨hbusy, rfl⟩ hlen
  have hwbuf : (wbufBytes 0 len.toNat s).length = len.toNat := readWbuf_length ..
  obtain ⟨u, hread, hok', hrbufu⟩ := completes_readAll hpt hrt (hct ▸ hc) hot hrests hwbuf (hct ▸ hlen) fun j hj => by
    rw [Memory.read_writeBytes hflash, if_pos (by simpa using hj), hct, Nat.sub_zero]
  refine ⟨t, u, hwrite, hok, hread, hok', fun k => ?_⟩
  rw [hrbufu, hrbuft, Memory.read_writeBytes hrbuf, hwbuf]
  simp

end Sys2Proof.Machine
end

section
/-! The two encodings (R80 to R92): the decoder by its operation codes and opcode bytes, the round trip in both directions, and the
numbers of the results. -/

namespace Sys2Proof

/-! ## Command words -/

/-- R90: a code from `0x0C` up is none of the twelve. -/
theorem decodeCommand_reserved {w : BitVec 64} (h : 0x0C ≤ (opField w).toNat) :
    decodeCommand w = .error (.reservedOperation (opField w)) := by
  unfold decodeCommand
  split
  case h_13 => rfl
  all_goals omega

/-- R88: the byte operand is the low byte of the argument. -/
theorem decodeCommand_reverseBits {w : BitVec 64} (h : opField w = 0x07) :
    decodeCommand w = .ok (.reverseBits ((argField w).setWidth 8)) := by
  simp [decodeCommand, h, BitVec.setWidth_eq_extractLsb']

/-- Settles O3: the twelve codes by the decoder's own table, each fixed by the code alone, and the reserved ones by what is left of it. -/
theorem operationCodesNameTheOperations : Obligations.OperationCodesNameTheOperations := by
  unfold Obligations.OperationCodesNameTheOperations
  intro w
  refine ⟨?_, ?_, ?_, ?_, ?_, ?_, ?_, decodeCommand_reverseBits, ?_, ?_, ?_, ?_, decodeCommand_reserved⟩
  all_goals exact fun h => by simp [decodeCommand, h]

/-! ## Frames -/

/-- R86: a first byte that is none of the seven opcodes makes no frame, whatever follows it. -/
theorem decodeFrame_unknownOpcode {op : Byte} (rest : List Byte)
    (h : op ∉ [0x05#8, 0x06#8, 0x04#8, 0x9F#8, 0xC7#8, 0x02#8, 0x03#8]) :
    decodeFrame (op :: rest) = .error (.unknownOpcode op) := by
  simp only [List.mem_cons, List.not_mem_nil, or_false, not_or, BitVec.toNat_eq, BitVec.toNat_ofNat] at h
  simp only [decodeFrame]
  split
  case h_15 => rfl
  all_goals omega

/-- Settles O4: the one-byte frames by computation, the two with an address by their round trip. -/
theorem opcodeBytesNameTheFrames : Obligations.OpcodeBytesNameTheFrames :=
  ⟨rfl, rfl, rfl, rfl, rfl, decodeFrame_ppFrame, decodeFrame_readFrame, fun _ rest h => decodeFrame_unknownOpcode rest h⟩

/-- Settles O2: what the decoder takes is a frame, and its encoding is what was decoded. -/
theorem decodedFrameHasOneByteSequence : Obligations.DecodedFrameHasOneByteSequence :=
  fun _ _ h => ⟨isFrame_of_decodeFrame h, encode_of_decodeFrame h⟩

/-! ## The round trip -/

/-- R87, R88: an operation's command word, read field by field, is that operation. -/
theorem decodeCommand_of_encode {i : Instr} {w : BitVec 64} (h : encode i = .command w) : decodeCommand w = .ok i := by
  cases i with
  | rdsr | wren | wrdi | rdid | be | pp | read => cases h
  | reverseBits b =>
    cases h
    rw [decodeCommand_reverseBits (opField_commandWord ..), argField_commandWord]
    simp
  | _ => cases h; simp [decodeCommand]

/-- R82, R83: a frame's bytes decode to that frame. -/
theorem decodeFrame_of_encode {i : Instr} {bytes : List Byte} (h : encode i = .frame bytes) : decodeFrame bytes = .ok i := by
  cases i with
  | rdsr | wren | wrdi | rdid | be => cases h; rfl
  | pp a payload => cases h; exact decodeFrame_ppFrame a payload
  | read a => cases h; exact decodeFrame_readFrame a
  | _ => cases h

/-- Settles O1: by the kind of code the instruction has. -/
theorem decodeOfEncodeIsTheInstruction : Obligations.DecodeOfEncodeIsTheInstruction := by
  unfold Obligations.DecodeOfEncodeIsTheInstruction
  intro i
  cases h : encode i with
  | command w => exact decodeCommand_of_encode h
  | frame bytes => exact decodeFrame_of_encode h

end Sys2Proof

namespace Sys2Proof.Machine

/-! ## Results -/

/-- Settles O34: by the table of the codes, error by error. -/
theorem resultCodesAreTheTable : Obligations.ResultCodesAreTheTable := by
  refine ⟨rfl, rfl, rfl, rfl, rfl, rfl, rfl, fun r => ?_⟩
  cases r with
  | ok => decide
  | fail e => cases e <;> decide

end Sys2Proof.Machine
end

section
/-! What the page write and a rejected command answer the host (R90, R133, R135, R196, R198). -/

namespace Sys2Proof.Machine

/-! ## `IllegalCommand` -/

/-- R90, R198: raising `IllegalCommand` ends the operation with `Done` alone, and leaves the working registers, `RBUF`, the transport
and the line. -/
theorem raise_illegalCommand_endsAs (s : State) :
    EndsAs s (raise .illegalCommand s) (.fail .illegalCommand) none (some false) [] ∧
      (raise .illegalCommand s).x = s.x ∧ (raise .illegalCommand s).RBUF = s.RBUF ∧
      (raise .illegalCommand s).oracle = s.oracle ∧ (raise .illegalCommand s).calls = s.calls ∧
      (raise .illegalCommand s).chipSelect = s.chipSelect :=
  ⟨⟨rfl, rfl, by simp, by simp, by simp, rfl, rfl, rfl, rfl⟩, rfl, rbufAfterError_before (e := .illegalCommand) rfl s, rfl, rfl, rfl⟩

/-- R196: a page operation longer than a packet is not begun. -/
theorem acceptPage_tooLong {s : State} (hp : s.pc = []) {l : Locals} (hn : s.cfg.PACKET_SIZE < l.n) (c : Routine) :
    acceptPage c l s = .next (raise .illegalCommand s) := by
  simp [acceptPage, hp, hn]

/-- Settles O10: a reserved code is refused by the decoder, a page operation by its length, and either raises `IllegalCommand`. -/
theorem illegalCommandsCompleteAtOnce : Obligations.IllegalCommandsCompleteAtOnce := by
  unfold Obligations.IllegalCommandsCompleteAtOnce
  refine ⟨fun s c rest hr hp hq hop => ?_, fun s a n i hp hn hi => ?_⟩
  · refine ⟨_, ?_, raise_illegalCommand_endsAs (s.taken c rest)⟩
    simp only [step, hr, sequencerStep, hp, hq, acceptStep, decodeCommand_reserved hop]
  · refine ⟨_, ?_, raise_illegalCommand_endsAs s⟩
    rcases hi with rfl | rfl <;> exact acceptPage_tooLong hp hn _

/-! ## A script that serves `WRITE_PAGE` -/

/-- R135: a script serves status reads in a row. -/
theorem serves_readings_script (qs : List Reading) (c : Cfg) (k : Nat) (rest : List Answer) :
    (Oracle.script (qs.flatMap Reading.answers ++ rest)).Serves c k (qs.flatMap Reading.actions) (.script rest) := by
  induction qs generalizing k with
  | nil => rfl
  | cons q qs ih =>
    simp only [List.flatMap_cons, List.append_assoc]
    exact Oracle.serves_append.2 ⟨_, q.serves_script c k _, ih _⟩

/-- R130, R131: a script serves the calls that arm a write-class command. -/
theorem Arming.serves_script (q : Arming) (c : Cfg) (k : Nat) (rest : List Answer) :
    (Oracle.script (q.answers ++ rest)).Serves c k q.actions (.script rest) := by
  rw [Arming.answers, List.append_assoc, Arming.actions, Oracle.serves_append]
  exact ⟨_, q.entry.serves_script c k _, [], _, rfl, q.confirm.serves_script c _ rest⟩

/-- R133: a script serves a page write, whose program frame is sent in full. -/
theorem PageRun.serves_script (q : PageRun) (c : Cfg) (k : Nat) (a : BitVec 32) (i : Nat) (chunk : List Byte)
    (rest : List Answer) :
    (Oracle.script (q.answers chunk.length ++ rest)).Serves c k (q.actions c a i chunk) (.script rest) := by
  rw [PageRun.answers, List.append_assoc, PageRun.actions, List.append_assoc, Oracle.serves_append]
  exact ⟨_, q.arm.serves_script c k _, [], _, rfl, serves_readings_script _ c _ rest⟩

/-- Settles O20: an accepted `WRITE_PAGE` runs to its step 14, whose return ends it. -/
theorem writePageProgramsTheChunk : Obligations.WritePageProgramsTheChunk := by
  unfold Obligations.WritePageProgramsTheChunk
  intro s a n q rest hp hr hn hq ho
  have hserves := q.serves_script s.cfg s.calls (a.setWidth 32) 0 (wbufBytes 0 n.toNat s) rest
  rw [show (wbufBytes 0 n.toNat s).length = n.toNat from readWbuf_length .., ← ho] at hserves
  obtain ⟨l', hruns⟩ := runs_writePage (l := writePageArgs (a.setWidth 32) 0 n.toNat) (r := []) hr hq hserves
  have hend := hruns.trans (runs_top (v := .void) (value := none) hr rfl)
  refine ⟨_, .of_runs (acceptPage_of_idle hp hn _) (by simp) hend rfl, ?_, rfl, rfl, rfl, rfl⟩
  exact ⟨rfl, rfl, by simp, by simp, by simp [writePageArgs], rfl, rfl, rfl, rfl⟩

end Sys2Proof.Machine
end

section
/-! The status and control operations (R110 to R115): what the masks of a status byte decide, and each operation's run to its end, with
success and with either phase of its transaction failing. -/

namespace Sys2Proof.Machine

/-! ## The decisions on a status byte (R115) -/

/-- A mask of one bit leaves something of a byte where the byte has that bit. -/
theorem and_twoPow_ne_zero {k : Nat} (hk : k < 8) (b : Byte) : b &&& BitVec.twoPow 8 k ≠ 0 ↔ b.getLsbD k = true := by
  rw [BitVec.and_twoPow]
  cases b.getLsbD k with
  | false => simp
  | true => simp [← BitVec.toNat_inj, BitVec.toNat_twoPow_of_lt hk]

theorem busy_iff (b : Byte) : busy b = true ↔ b &&& 0x01 ≠ 0 := (and_twoPow_ne_zero (k := 0) (by decide) b).symm

theorem wel_iff (b : Byte) : wel b = true ↔ b &&& 0x02 ≠ 0 := (and_twoPow_ne_zero (k := 1) (by decide) b).symm

/-- R115: the confirmation fails where the check is not the literal one and the latch is not seen set. -/
theorem confirmFails_iff (c : Cfg) (b : Byte) : confirmFails c b = true ↔ c.WEL_CHECK_LITERAL = false ∧ wel b = false := by
  simp [confirmFails]

/-- Settles O17: each predicate reads the bit its mask selects. -/
theorem statusDecisionsAreTheMasks : Obligations.StatusDecisionsAreTheMasks := by
  unfold Obligations.StatusDecisionsAreTheMasks
  intro c b
  refine ⟨busy_iff b, wel_iff b, fun hc => ?_, fun hc => ?_⟩
  · rw [confirmFails_iff, and_iff_right hc, ← Bool.not_eq_true, wel_iff, not_not]
  · rw [← Bool.not_eq_true, confirmFails_iff, hc]
    simp

/-! ## How an operation ends (R96, R198) -/

/-- R96: `Done`, in a state `u` that the actions `acts` have led to. -/
theorem finish_endsAs {s u : State} {r : Result} {value : Option Byte} {flag : Option Bool} {acts : List Action}
    (hu : KeepsHostSide s u) (ht : u.trace = s.trace ++ acts) : EndsAs s (finish r value flag u) r value flag acts :=
  ⟨rfl, rfl, by simp +contextual, by simp +contextual, by rw [finish_trace, ht], hu⟩

/-- R198: an error raised there. -/
theorem raise_endsAs {s u : State} {e : Error} {acts : List Action} (hu : KeepsHostSide s u) (ht : u.trace = s.trace ++ acts) :
    EndsAs s (raise e u) (.fail e) none (some false) acts :=
  finish_endsAs (u := u.withRbuf (rbufAfterError e u)) hu ht

/-- R59: an error of an operation that stores nothing leaves `RBUF` as it is. -/
theorem raise_RBUF_of_rbufRange_zero {s : State} {f : Activation} (hp : s.pc = [f]) (hf : f.rbufRange = 0) (e : Error) :
    (raise e s).RBUF = s.RBUF := by
  have hdraw : drawOperation s = s.RBUF := by simp [drawOperation, State.operation, hp, hf, drawRbuf, Memory.writeBytes]
  rw [raise_RBUF, rbufAfterError, hdraw, ite_self]

/-! ## A phase that fails (R191) -/

/-- The frame's call fails, and the check of its result raises `TransportError`: no second call is made. -/
theorem runs_sendFails {s : State} {c : Routine} {k : Nat} {l : Locals} {r : List Activation} {bytes : List Byte} {i : Instr}
    {cnt : Nat} {o : Oracle} (hr : s.resetLine = []) (hf : (⟨c, k, l⟩ : Activation).outgoing = some bytes)
    (hd : decodeFrame bytes = .ok i) (hcheck : ∀ l u, runStep ⟨c, k + 1, l⟩ u = checkOk l u)
    (ho : s.oracle.Serves s.cfg s.calls [.write bytes true (shapeA i) cnt false] o) :
    Runs (s.withPc (⟨c, k, l⟩ :: r))
      (raise .transportError ((s.ran [.write bytes true (shapeA i) cnt false] o .unknown s.x).withPc
        (⟨c, k + 1, { l with cnt := cnt, ok := false }⟩ :: r))) := by
  obtain ⟨data, o, ho, rfl⟩ := ho
  exact (runs_send hr hf hd ho).trans (Runs.one hr (hcheck _ _))

/-- The header is sent with success, the read phase fails, and the check of its result raises `TransportError`. -/
theorem runs_receiveFails {s : State} {c : Routine} {k n : Nat} {l : Locals} {r : List Activation} {bytes : List Byte} {i : Instr}
    {sent cnt : Nat} {d : List Byte} {o : Oracle} (hr : s.resetLine = []) (hn : n ≠ 0)
    (hf : (⟨c, k, l⟩ : Activation).outgoing = some bytes) (hd : decodeFrame bytes = .ok i) (hi : shapeA i = false)
    (hcheck : ∀ l u, runStep ⟨c, k + 1, l⟩ u = checkOk l u ∧ runStep ⟨c, k + 3, l⟩ u = checkOk l u)
    (hread : ∀ u, runStep ⟨c, k + 2, { l with cnt := sent, ok := true }⟩ u = readPhase n u)
    (ho : s.oracle.Serves s.cfg s.calls [.write bytes true false sent true, .read n false true d cnt false] o) :
    Runs (s.withPc (⟨c, k, l⟩ :: r))
      (raise .transportError ((s.ran [.write bytes true false sent true, .read n false true d cnt false] o .unknown s.x).withPc
        (⟨c, k + 3, { l with d := d, cnt := cnt, ok := false }⟩ :: r))) := by
  obtain ⟨data, o₁, ho, data', o₂, ho', rfl, rfl⟩ := ho
  have hsend := runs_send (r := r) hr hf hd (by rw [hi]; exact ho)
  rw [hi] at hsend
  have hread := runs_receive (s := s.ran [.write bytes true false sent true] o₁ .asserted s.x) (r := r) hr hread ho'
  rw [State.ran_ran, Line.afterRead_pos hn] at hread
  exact (hsend.trans (runs_advance hr (hcheck _ _).1)).trans (hread.trans (Runs.one hr (hcheck _ _).2))

/-! ## What a script serves (R54, R56) -/

/-- A script serves a frame's call by its next answer. -/
theorem serves_write_script (c : Cfg) (k cnt : Nat) (ok csA csR : Bool) (bytes data : List Byte) (rest : List Answer) :
    (Oracle.script (.returned cnt ok data :: rest)).Serves c k [.write bytes csA csR cnt ok] (.script rest) :=
  ⟨data, _, rfl, rfl⟩

/-- A script serves a transaction of shape B by its next two answers; the read phase gives the data of the second. -/
theorem serves_shapeB_script (c : Cfg) (k n sent cnt : Nat) (ok : Bool) (bytes data data' : List Byte) (rest : List Answer) :
    (Oracle.script (.returned sent true data :: .returned cnt ok data' :: rest)).Serves c k
      [.write bytes true false sent true, .read n false true (readData (k + 1) n data') cnt ok] (.script rest) :=
  ⟨data, _, rfl, data', _, rfl, rfl, rfl⟩

/-! ## `READ_STATUS` (R111) -/

/-- Settles O14: the run to the return of `READ_STATUS`, or to the check that fails. -/
theorem readStatusReturnsTheDevicesByte : Obligations.ReadStatusReturnsTheDevicesByte := by
  unfold Obligations.ReadStatusReturnsTheDevicesByte
  intro s n m d d' rest hp hr
  have haccept := accept_of_idle hp .readStatus {}
  have hserves ok := serves_shapeB_script s.cfg s.calls 1 n m ok [opRdsr] d d' rest
  obtain ⟨v, hv⟩ : ∃ v, readData (s.calls + 1) 1 d' = [v] := ⟨_, rfl⟩
  rw [hv] at hserves
  refine ⟨fun ho => ?_, fun ho => ?_, fun ho => ?_⟩
  · have hruns := runs_readStatus (q := ⟨n, m, v⟩) (l := {}) (r := []) hr (ho ▸ hserves true)
    have hend := hruns.trans (runs_top (v := .byte v) (value := some v) hr rfl)
    refine ⟨_, v, .of_runs haccept (by simp) hend rfl, fun b hb => ?_, finish_endsAs ⟨rfl, rfl, rfl, rfl⟩ rfl, rfl, rfl, rfl, rfl⟩
    have hread := readData_getElem? (call := s.calls + 1) one_pos (List.head?_eq_getElem? ▸ hb)
    simpa [hv] using hread
  · have hruns := runs_receiveFails (c := .readStatus) (k := 1) (l := {}) (r := []) hr one_ne_zero rfl rfl rfl
      (fun _ _ => ⟨rfl, rfl⟩) (fun _ => rfl) (ho ▸ hserves false)
    exact ⟨_, _, .of_runs haccept (by simp) hruns rfl, raise_endsAs ⟨rfl, rfl, rfl, rfl⟩ rfl, rfl,
      raise_RBUF_of_rbufRange_zero rfl rfl _, rfl, rfl⟩
  · have hruns := runs_sendFails (c := .readStatus) (k := 1) (l := {}) (r := []) hr rfl rfl (fun _ _ => rfl)
      (ho ▸ serves_write_script s.cfg s.calls n false true false [opRdsr] d rest)
    exact ⟨_, .of_runs haccept (by simp) hruns rfl, raise_endsAs ⟨rfl, rfl, rfl, rfl⟩ rfl, rfl,
      raise_RBUF_of_rbufRange_zero rfl rfl _, rfl, rfl⟩

/-! ## `WRITE_ENABLE` and `WRITE_DISABLE` (R112, R113) -/

/-- R112, R113: an operation of one frame of shape A ends by the result of that call, and stores nothing. -/
theorem completes_oneCall {s : State} {i fr : Instr} {c : Routine} {bytes data : List Byte} {n : Nat} {ok : Bool}
    {rest : List Answer} (hp : s.pc = []) (hr : s.resetLine = []) (hexec : exec i s = accept c {} s)
    (hf : (⟨c, 1, {}⟩ : Activation).outgoing = some bytes) (hd : decodeFrame bytes = .ok fr) (hi : shapeA fr = true)
    (hcheck : ∀ l u, runStep ⟨c, 2, l⟩ u = checkOk l u)
    (hreturn : ∀ l u, runStep ⟨c, 3, l⟩ u = .next (returnWith .void none u))
    (hrange : ∀ l, (⟨c, 2, l⟩ : Activation).rbufRange = 0) (ho : s.oracle = .script (.returned n ok data :: rest)) :
    ∃ t, Completes i s t ∧ t.x = s.x ∧ t.RBUF = s.RBUF ∧ t.oracle = .script rest ∧
      (ok = true → EndsAs s t .ok none none [.write bytes true true n true] ∧ t.chipSelect = .released) ∧
      (ok = false → EndsAs s t (.fail .transportError) none (some false) [.write bytes true true n false] ∧
        t.chipSelect = .unknown) := by
  have haccept := hexec.trans (accept_of_idle hp c {})
  have hserves := ho ▸ serves_write_script s.cfg s.calls n ok true true bytes data rest
  cases ok with
  | true =>
    have hruns := (runs_shapeA (l := {}) (r := []) hr hf hd hi hcheck hserves).trans (runs_top hr (hreturn _ _))
    exact ⟨_, .of_runs haccept (by simp) hruns rfl, rfl, rfl, rfl,
      fun _ => ⟨finish_endsAs ⟨rfl, rfl, rfl, rfl⟩ rfl, rfl⟩, nofun⟩
  | false =>
    have hruns := runs_sendFails (l := {}) (r := []) hr hf hd hcheck (by rw [hi]; exact hserves)
    rw [hi] at hruns
    exact ⟨_, .of_runs haccept (by simp) hruns rfl, rfl, raise_RBUF_of_rbufRange_zero rfl (hrange _) _, rfl, nofun,
      fun _ => ⟨raise_endsAs ⟨rfl, rfl, rfl, rfl⟩ rfl, rfl⟩⟩

/-- Settles O15: both are operations of one frame of shape A. -/
theorem writeEnableAndDisableSendOneByte : Obligations.WriteEnableAndDisableSendOneByte := by
  unfold Obligations.WriteEnableAndDisableSendOneByte
  rintro s n ok d rest hp hr ho i op (⟨rfl, rfl⟩ | ⟨rfl, rfl⟩)
  · exact completes_oneCall (c := .writeEnable) (fr := .wren) hp hr rfl rfl rfl rfl (fun _ _ => rfl) (fun _ _ => rfl)
      (fun _ => rfl) ho
  · exact completes_oneCall (c := .writeDisable) (fr := .wrdi) hp hr rfl rfl rfl rfl (fun _ _ => rfl) (fun _ _ => rfl)
      (fun _ => rfl) ho

/-! ## `READ_ID` (R114) -/

/-- R114: `READ_ID`, from its step 1 to its end at top level, stores the bytes received at index 0. -/
theorem runs_readId {s : State} {l : Locals} {sent got : Nat} {d : List Byte} {o : Oracle} (hr : s.resetLine = [])
    (ho : s.oracle.Serves s.cfg s.calls [.write [opRdid] true false sent true, .read Cfg.ID_LEN false true d got true] o) :
    Runs (s.withPc [⟨.readId, 1, l⟩])
      (finish .ok none none (memWrite 0 d
        (s.ran [.write [opRdid] true false sent true, .read Cfg.ID_LEN false true d got true] o .released s.x))) := by
  have hreceived := runs_shapeB (c := .readId) (k := 1) (l := l) (r := []) hr rfl rfl rfl (fun _ _ => ⟨rfl, rfl⟩) (fun _ => rfl) ho
  exact hreceived.trans (Runs.step rfl hr rfl (Runs.step rfl hr rfl (Runs.refl _)))

/-- Settles O16: the run to the store and return of `READ_ID`, or to the check that fails. -/
theorem readIdStoresThreeBytes : Obligations.ReadIdStoresThreeBytes := by
  unfold Obligations.ReadIdStoresThreeBytes
  intro s n m d d' rest hp hr
  have haccept := accept_of_idle hp .readId {}
  have hserves ok := serves_shapeB_script s.cfg s.calls Cfg.ID_LEN n m ok [opRdid] d d' rest
  refine ⟨fun ho => ?_, fun ho => ?_, fun ho => ?_⟩
  · have hruns := runs_readId (l := {}) hr (ho ▸ hserves true)
    exact ⟨_, _, .of_runs haccept (by simp) hruns rfl, readData_length .., fun _ _ => readData_getElem?,
      finish_endsAs ⟨rfl, rfl, rfl, rfl⟩ (List.append_assoc ..), rfl, rfl, rfl, rfl⟩
  · have hruns := runs_receiveFails (c := .readId) (k := 1) (l := {}) (r := []) hr (by decide) rfl rfl rfl
      (fun _ _ => ⟨rfl, rfl⟩) (fun _ => rfl) (ho ▸ hserves false)
    exact ⟨_, _, .of_runs haccept (by simp) hruns rfl, raise_endsAs ⟨rfl, rfl, rfl, rfl⟩ rfl, rfl, rfl⟩
  · have hruns := runs_sendFails (c := .readId) (k := 1) (l := {}) (r := []) hr rfl rfl (fun _ _ => rfl)
      (ho ▸ serves_write_script s.cfg s.calls n false true false [opRdid] d rest)
    exact ⟨_, .of_runs haccept (by simp) hruns rfl, raise_endsAs ⟨rfl, rfl, rfl, rfl⟩ rfl, rfl, rfl⟩

end Sys2Proof.Machine
end

section
/-! The bulk erase and `REVERSE_BITS` (R132, R135, R145): the erase's wait loop step by step, which goes on for as long as the device
shows itself busy, the run of the whole erase, and the reversed byte. -/

namespace Sys2Proof.Machine

/-! ## A status read, its steps counted -/

/-- R111, step 1: the header of a status read is sent with success. -/
theorem runStep_statusHeader {s : State} {l : Locals} {r : List Activation} {cnt : Nat} {data : List Byte} {o : Oracle}
    (ho : s.oracle.answer s.cfg s.calls (.write [opRdsr] true false) = (.returned cnt true data, o)) :
    runStep ⟨.readStatus, 1, l⟩ (s.withPc (⟨.readStatus, 1, l⟩ :: r)) =
      .next ((s.ran [statusHeader cnt true] o .asserted s.x).withPc
        (⟨.readStatus, 2, { l with cnt := cnt, ok := true }⟩ :: r)) := by
  have hstep (u : State) : runStep ⟨.readStatus, 1, l⟩ u = .next (xferWrite [opRdsr] true false u) := rfl
  simp only [hstep, xferWrite, State.withPc_oracle, State.withPc_cfg, State.withPc_calls, ho]
  rfl

/-- R111, step 3: the read phase of a status read returns with success. -/
theorem runStep_statusPhase {s : State} {l : Locals} {r : List Activation} {cnt : Nat} {data d : List Byte} {o : Oracle}
    (ho : s.oracle.answer s.cfg s.calls (.read 1 false true) = (.returned cnt true data, o))
    (hd : readData s.calls 1 data = d) :
    runStep ⟨.readStatus, 3, l⟩ (s.withPc (⟨.readStatus, 3, l⟩ :: r)) =
      .next ((s.ran [statusPhase d cnt true] o .released s.x).withPc
        (⟨.readStatus, 4, { l with d := d, cnt := cnt, ok := true }⟩ :: r)) := by
  have hstep (u : State) : runStep ⟨.readStatus, 3, l⟩ u = .next (xferRead 1 false true u) := rfl
  simp only [hstep, xferRead, State.withPc_oracle, State.withPc_cfg, State.withPc_calls, ho, hd]
  rfl

/-- R111: `READ_STATUS` takes six steps to return the byte to its caller. -/
theorem runToIdle_readStatus {s : State} {g : Activation} {r : List Activation} {q : Reading} {o : Oracle}
    (hr : s.resetLine = []) (ho : s.oracle.Serves s.cfg s.calls q.actions o) :
    runToIdle 6 (s.withPc (⟨.readStatus, 1, {}⟩ :: g :: r)) =
      .next ((s.ran q.actions o .released { s.x with STATUS := q.byte }).withPc (g.resume (.byte q.byte) :: r)) := by
  obtain ⟨data, o₁, hsend, data', o₂, hread, hdata, rfl⟩ := ho
  have hphase := runStep_statusPhase (s := s.ran [statusHeader q.sent true] o₁ .asserted s.x)
    (l := { cnt := q.sent, ok := true }) (r := g :: r) hread hdata
  rw [State.ran_ran] at hphase
  refine (runToIdle_step rfl (by exact hr) (runStep_statusHeader hsend) 5).trans ?_
  refine (runToIdle_step rfl (by exact hr) rfl 4).trans ?_
  refine (runToIdle_step rfl (by exact hr) hphase 3).trans ?_
  refine (runToIdle_step rfl (by exact hr) rfl 2).trans ?_
  refine (runToIdle_step rfl (by exact hr) rfl 1).trans ?_
  exact runToIdle_step rfl (by exact hr) rfl 0

/-! ## The wait loop of `BULK_ERASE` (R135) -/

/-- R132: what one poll of the erase shows: the delay before it, the status read, the event after it. -/
def erasePollActions (c : Cfg) (q : Reading) : List Action := .delay c.T_ERASE_POLL :: q.actions ++ [.emit .spin]

theorem EraseRun.actions_eq (c : Cfg) (q : EraseRun) :
    q.actions c = q.arm.actions ++ .write [opBe] true true q.sent true :: q.polls.readings.flatMap (erasePollActions c) := rfl

/-- R214, step 10: one `Spin` for the poll. -/
theorem runStep_spin (s : State) (l : Locals) (r : List Activation) :
    runStep ⟨.bulkErase, 10, l⟩ (s.withPc (⟨.bulkErase, 10, l⟩ :: r)) =
      .next ((s.ran [.emit .spin] s.oracle s.chipSelect s.x).withPc (⟨.bulkErase, 11, l⟩ :: r)) := rfl

/-- R132, steps 8 to 10: a poll takes nine steps to the test of its byte. -/
theorem runToIdle_erasePoll {s : State} {l : Locals} {r : List Activation} {q : Reading} {o : Oracle} (hr : s.resetLine = [])
    (ho : s.oracle.Serves s.cfg s.calls (erasePollActions s.cfg q) o) :
    runToIdle 9 (s.withPc (⟨.bulkErase, 8, l⟩ :: r)) =
      .next ((s.ran (erasePollActions s.cfg q) o .released { s.x with STATUS := q.byte }).withPc
        (⟨.bulkErase, 11, { l with s := q.byte }⟩ :: r)) := by
  obtain ⟨o, ho, rfl⟩ := (Oracle.serves_append (acts := q.actions)).1 ho
  have hread := runToIdle_readStatus (s := s.ran [.delay s.cfg.T_ERASE_POLL] s.oracle s.chipSelect s.x)
    (g := ⟨.bulkErase, 9, l⟩) (r := r) hr ho
  rw [State.ran_ran] at hread
  refine (runToIdle_step rfl (by exact hr) rfl 8).trans ?_
  refine (runToIdle_step rfl (by exact hr) rfl 7).trans (runToIdle_add (k := 1) hread ?_)
  refine (runToIdle_step rfl (by exact hr) (runStep_spin _ { l with s := q.byte } r) 0).trans ?_
  rw [State.ran_ran]
  rfl

/-- R135, step 11: a poll that shows the device busy takes a tenth step, back to the delay, so that any number of them leaves
`BULK_ERASE` in its wait loop. -/
theorem runToIdle_busyErasePolls {s : State} {l : Locals} {r : List Activation} {qs : List Reading} {o : Oracle}
    (hr : s.resetLine = []) (hbusy : ∀ q ∈ qs, busy q.byte = true)
    (ho : s.oracle.Serves s.cfg s.calls (qs.flatMap (erasePollActions s.cfg)) o) :
    ∃ line status b, runToIdle (10 * qs.length) (s.withPc (⟨.bulkErase, 8, l⟩ :: r)) =
      .next ((s.ran (qs.flatMap (erasePollActions s.cfg)) o line { s.x with STATUS := status }).withPc
        (⟨.bulkErase, 8, { l with s := b }⟩ :: r)) := by
  induction qs generalizing s l with
  | nil =>
    cases ho
    exact ⟨s.chipSelect, s.x.STATUS, l.s, by simp [runToIdle, State.ran]⟩
  | cons q qs ih =>
    obtain ⟨o₁, ho₁, ho₂⟩ := Oracle.serves_append.1 ho
    obtain ⟨hq, hqs⟩ := List.forall_mem_cons.1 hbusy
    have hback (u : State) : runStep ⟨.bulkErase, 11, { l with s := q.byte }⟩ u = .next (u.goto 8) := if_pos hq
    obtain ⟨line, status, b, hrest⟩ := ih (l := { l with s := q.byte })
      (s := s.ran (erasePollActions s.cfg q) o₁ .released { s.x with STATUS := q.byte }) hr hqs ho₂
    rw [State.ran_ran] at hrest
    refine ⟨line, status, b, ?_⟩
    rw [List.length_cons, Nat.mul_succ, Nat.add_comm]
    refine runToIdle_add (k := 10 * qs.length) (runToIdle_add (k := 1) (runToIdle_erasePoll hr ho₁) ?_) hrest
    exact runToIdle_step rfl (by exact hr) (hback _) 0

/-- R135: a script serves the polls of an erase. -/
theorem serves_erasePolls_script (qs : List Reading) (c : Cfg) (k : Nat) (rest : List Answer) :
    (Oracle.script (qs.flatMap Reading.answers ++ rest)).Serves c k (qs.flatMap (erasePollActions c)) (.script rest) := by
  induction qs generalizing k with
  | nil => rfl
  | cons q qs ih =>
    simp only [List.flatMap_cons, List.append_assoc]
    exact Oracle.serves_append.2 ⟨_, Oracle.serves_append.2 ⟨_, q.serves_script c k _, rfl⟩, ih _⟩

/-- Settles O19: ten steps for each busy poll lead back to the delay. -/
theorem busyDeviceKeepsBulkErasePolling : Obligations.BusyDeviceKeepsBulkErasePolling := by
  unfold Obligations.BusyDeviceKeepsBulkErasePolling
  intro s l polls rest hp hr hbusy ho
  obtain ⟨line, status, b, hruns⟩ := runToIdle_busyErasePolls (l := l) (r := []) hr hbusy
    (ho ▸ serves_erasePolls_script polls s.cfg s.calls rest)
  rw [← hp] at hruns
  exact ⟨_, _, hruns, rfl, rfl, rfl⟩

/-! ## The whole of `BULK_ERASE` (R132) -/

/-- R135: the wait loop ends at the poll that shows the device ready. -/
theorem runs_erasePolls {s : State} {l : Locals} {r : List Activation} {q : Polls} {o : Oracle} (hr : s.resetLine = [])
    (hq : q.good) (ho : s.oracle.Serves s.cfg s.calls (q.readings.flatMap (erasePollActions s.cfg)) o) :
    Runs (s.withPc (⟨.bulkErase, 8, l⟩ :: r))
      ((s.ran (q.readings.flatMap (erasePollActions s.cfg)) o .released { s.x with STATUS := q.last.byte }).withPc
        (⟨.bulkErase, 12, { l with s := q.last.byte }⟩ :: r)) := by
  obtain ⟨hbusy, hready⟩ := hq
  simp only [Polls.readings, List.flatMap_append, List.flatMap_singleton] at ho ⊢
  obtain ⟨o₁, ho₁, ho₂⟩ := Oracle.serves_append.1 ho
  obtain ⟨line, status, b, hpolls⟩ := runToIdle_busyErasePolls (l := l) (r := r) hr hbusy ho₁
  refine Runs.trans ⟨_, hpolls⟩ (Runs.trans ⟨9, runToIdle_erasePoll hr ho₂⟩ ?_)
  rw [State.ran_ran]
  refine runs_advance hr (if_neg ?_)
  simpa using hready

/-- R132: `BULK_ERASE`, from its step 1 to its return. -/
theorem runs_bulkErase {s : State} {l : Locals} {r : List Activation} {q : EraseRun} {o : Oracle} (hr : s.resetLine = [])
    (hq : q.good s.cfg) (ho : s.oracle.Serves s.cfg s.calls (q.actions s.cfg) o) :
    Runs (s.withPc (⟨.bulkErase, 1, l⟩ :: r))
      ((s.ran (q.actions s.cfg) o .released { s.x with STATUS := q.polls.last.byte }).withPc
        (⟨.bulkErase, 12, { l with s := q.polls.last.byte, cnt := q.sent, ok := true }⟩ :: r)) := by
  obtain ⟨harm, hpolls⟩ := hq
  obtain ⟨o₁, ho₁, ho⟩ := Oracle.serves_append.1 ho
  obtain ⟨o₂, ho₂, ho₃⟩ := (Oracle.serves_append (acts := [.write [opBe] true true q.sent true])).1 ho
  refine Runs.trans (runs_arming (.inl rfl) hr harm ho₁) ?_
  refine Runs.trans (runs_shapeA (i := .be) hr rfl rfl rfl (fun _ _ => rfl) ho₂) ?_
  refine Runs.trans (runs_erasePolls hr hpolls ho₃) (.of_eq ?_)
  simp [State.ran_ran, EraseRun.actions_eq]

/-- R132: a script serves a bulk erase. -/
theorem EraseRun.serves_script (q : EraseRun) (c : Cfg) (k : Nat) (rest : List Answer) :
    (Oracle.script (q.answers ++ rest)).Serves c k (q.actions c) (.script rest) := by
  rw [EraseRun.answers, List.append_assoc, EraseRun.actions_eq, Oracle.serves_append]
  exact ⟨_, q.arm.serves_script c k _, [], _, rfl, serves_erasePolls_script _ c _ rest⟩

/-- Settles O18: an accepted `BULK_ERASE` runs to its step 12, whose return ends it. -/
theorem bulkEraseRunsUntilThePollIsClear : Obligations.BulkEraseRunsUntilThePollIsClear := by
  unfold Obligations.BulkEraseRunsUntilThePollIsClear
  intro s q rest hp hr hq ho
  have hruns := runs_bulkErase (l := {}) (r := []) hr hq (ho ▸ q.serves_script s.cfg s.calls rest)
  have hend := hruns.trans (runs_top (v := .void) (value := none) hr rfl)
  exact ⟨_, .of_runs (accept_of_idle hp _ _) (by simp) hend rfl, finish_endsAs ⟨rfl, rfl, rfl, rfl⟩ rfl, rfl, rfl, rfl, rfl⟩

/-! ## `REVERSE_BITS` (R145) -/

/-- R145: of the 256 bytes, these are the ones that read the same from either end. -/
theorem rev8_eq_self_iff (b : Byte) : rev8 b = b ↔ b ∈ [0x00#8, 0x18#8, 0x24#8, 0x3C#8, 0x42#8, 0x5A#8, 0x66#8, 0x7E#8,
    0x81#8, 0x99#8, 0xA5#8, 0xBD#8, 0xC3#8, 0xDB#8, 0xE7#8, 0xFF#8] := by
  revert b
  decide

/-- R87: the low byte of the argument is the low byte of the command word. -/
theorem setWidth_argField (w : BitVec 64) : (argField w).setWidth 8 = w.setWidth 8 := by
  rw [argField, ← BitVec.setWidth_eq_extractLsb' (by decide), BitVec.setWidth_setWidth_of_le _ (by decide)]

/-- R145: the one step of `REVERSE_BITS` ends it with the reversed byte, and nothing else happens. -/
theorem completes_reverseBits {s : State} (hp : s.pc = []) (hr : s.resetLine = []) (b : Byte) :
    Completes (.reverseBits b) s (finish .ok (some (rev8 b)) none s) := by
  refine .of_runs (accept_of_idle hp _ _) (by simp) ?_ rfl
  exact runs_top (f := ⟨.reverseBits, 1, { b := b }⟩) (v := .byte (rev8 b)) hr rfl

/-- Settles O22: the byte bit by bit, the operand by its field, and the operation by its one step. -/
theorem reverseBitsReversesTheByte : Obligations.ReverseBitsReversesTheByte := by
  unfold Obligations.ReverseBitsReversesTheByte
  refine ⟨fun b k hk => ?_, rev8_rev8, rev8_eq_self_iff, fun w hw => ?_, fun s b hp hr => ?_⟩
  · rw [getLsbD_rev8 b (by omega), Nat.sub_sub_self (by omega)]
  · rw [decodeCommand_reverseBits hw, setWidth_argField]
  · exact ⟨_, completes_reverseBits hp hr b, finish_endsAs ⟨rfl, rfl, rfl, rfl⟩ (by simp), rfl, rfl, rfl, rfl, rfl⟩

end Sys2Proof.Machine
end

section
/-! Two steps of the chunk loops that stand alone: the size check, which comes first (R161), and the report of progress (R166). -/

namespace Sys2Proof.Machine

/-! ## The size check (R161) -/

/-- R161, R199: `SizeExceeded` touches no buffer. -/
theorem raise_sizeExceeded_RBUF (s : State) : (raise .sizeExceeded s).RBUF = s.RBUF :=
  rbufAfterError_before (e := .sizeExceeded) rfl s

/-- R161: step 1 of either loop. -/
theorem runStep_checkSize {c : Routine} (hc : c = .writeAll ∨ c = .readAll) (l : Locals) (s : State) :
    runStep ⟨c, 1, l⟩ s = checkSize l s := by
  rcases hc with rfl | rfl <;> rfl

/-- R31, R162, R163: either operation is accepted in IDLE as its loop over the length given. -/
theorem exec_chunkLoop {i : Instr} {len : BitVec 32} {s : State} (hp : s.pc = []) (hi : i = .writeAll len ∨ i = .readAll len) :
    ∃ c l, (c = .writeAll ∨ c = .readAll) ∧ l.len = len.toNat ∧ exec i s = .next (s.withPc [⟨c, 1, l⟩]) := by
  rcases hi with rfl | rfl
  · exact ⟨_, _, .inl rfl, rfl, accept_of_idle hp _ _⟩
  · exact ⟨_, _, .inr rfl, rfl, accept_of_idle hp _ _⟩

/-- Settles O27: the first step of either loop is the size check. -/
theorem oversizedRequestsAreRejectedFirst : Obligations.OversizedRequestsAreRejectedFirst := by
  unfold Obligations.OversizedRequestsAreRejectedFirst
  intro s len i hp hr hi
  obtain ⟨c, l, hc, hl, hexec⟩ := exec_chunkLoop hp hi
  have hstep : step (s.withPc [⟨c, 1, l⟩]) = checkSize l (s.withPc [⟨c, 1, l⟩]) :=
    (step_running (f := ⟨c, 1, l⟩) (r := []) rfl (by exact hr)).trans (runStep_checkSize hc l _)
  refine ⟨fun hlen => ?_, fun hlen => ?_⟩
  · have hraise := hstep.trans (if_pos (by rw [hl]; exact hlen))
    exact ⟨_, _, hexec, by simp, hraise, raise_endsAs ⟨rfl, rfl, rfl, rfl⟩ (List.append_nil _).symm, rfl,
      raise_sizeExceeded_RBUF _, rfl, rfl, rfl⟩
  · have hpass := hstep.trans (if_neg (by rw [hl]; exact Nat.not_lt.2 hlen))
    exact ⟨_, _, _, hexec, hpass, rfl, rfl, hl, rfl, rfl, rfl, rfl, rfl, rfl, rfl, rfl⟩

/-! ## The report of progress (R166) -/

/-- Settles O28: the report step of either loop is `reportProgress`, which tests whether the percentage has changed. -/
theorem progressIsReportedOnChange : Obligations.ProgressIsReportedOnChange := by
  unfold Obligations.ProgressIsReportedOnChange
  intro s f r hp hr hf
  have hstep : step s = reportProgress f.loc s := by
    obtain ⟨c, k, l⟩ := f
    rw [step_running hp hr]
    rcases hf with ⟨rfl, rfl⟩ | ⟨rfl, rfl⟩ <;> rfl
  refine ⟨fun hchanged => ?_, fun hsame => ?_⟩
  · rw [hstep, reportProgress, if_pos hchanged, advance_running (by exact hp)]
    rfl
  · rw [hstep, reportProgress, if_neg (not_not.2 hsame), advance_running hp]
    rfl

end Sys2Proof.Machine
end

section
/-! The arithmetic of the chunks (R160, R166): what the registers of a loop over `len` bytes hold at the top of iteration `k`, and
how the percentage goes on from one iteration to the next. -/

namespace Sys2Proof.Machine

/-! ## The chunks of a request (R160) -/

theorem lt_chunkCount_iff {c : Cfg} (hc : c.wf) {len k : Nat} : k < chunkCount c len ↔ k * c.PACKET_SIZE < len := by
  obtain ⟨hpacket, -, -⟩ := hc
  rw [chunkCount, ← Nat.succ_le_iff, Nat.le_div_iff_mul_le hpacket, Nat.succ_mul]
  omega

theorem le_chunkCount_mul {c : Cfg} (hc : c.wf) (len : Nat) : len ≤ chunkCount c len * c.PACKET_SIZE :=
  Nat.not_lt.1 fun h => lt_irrefl _ ((lt_chunkCount_iff hc).2 h)

theorem chunkCount_eq_zero_iff {c : Cfg} (hc : c.wf) {len : Nat} : chunkCount c len = 0 ↔ len = 0 := by
  have hfirst := lt_chunkCount_iff hc (len := len) (k := 0)
  omega

/-- R160: with chunk `k` the request is done up to the next chunk's index, or to its end. -/
theorem add_chunkLen {c : Cfg} {len k : Nat} (hk : k * c.PACKET_SIZE < len) :
    k * c.PACKET_SIZE + chunkLen c len k = min ((k + 1) * c.PACKET_SIZE) len := by
  rw [chunkLen, Nat.succ_mul]
  omega

theorem chunkLen_pos {c : Cfg} (hc : c.wf) {len k : Nat} (hk : k * c.PACKET_SIZE < len) : 0 < chunkLen c len k := by
  obtain ⟨hpacket, -, -⟩ := hc
  rw [chunkLen]
  omega

/-! ## The percentage (R166) -/

/-- R166: the percentage after `k` chunks; 0 before the first. -/
def percentAt (c : Cfg) (len k : Nat) : Nat := 100 * min (k * c.PACKET_SIZE) len / len

theorem percentAt_zero (c : Cfg) (len : Nat) : percentAt c len 0 = 0 := by simp [percentAt]

theorem chunkPercents_eq (c : Cfg) (len : Nat) :
    chunkPercents c len = (List.range' 0 (chunkCount c len)).map fun k => percentAt c len (k + 1) := by
  rw [← List.range_eq_range']
  rfl

theorem percentAt_le (c : Cfg) (len k : Nat) : percentAt c len k ≤ 100 :=
  Nat.div_le_of_le_mul (by rw [Nat.mul_comm]; exact Nat.mul_le_mul_right _ (Nat.min_le_right ..))

theorem percentAt_chunkCount {c : Cfg} (hc : c.wf) {len : Nat} (hlen : len ≠ 0) : percentAt c len (chunkCount c len) = 100 := by
  rw [percentAt, Nat.min_eq_right (le_chunkCount_mul hc len), Nat.mul_div_cancel _ (Nat.pos_of_ne_zero hlen)]

/-- R166: what the report of iteration `k` shows. -/
def percentReport (c : Cfg) (len k : Nat) : List Action :=
  if percentAt c len (k + 1) = percentAt c len k then [] else [.emit (.progress (BitVec.ofNat 7 (percentAt c len (k + 1))))]

/-! ## The registers at the top of an iteration (R37, R160) -/

/-- R37, R160, R166: the registers of a loop over `len` bytes after `k` chunks. -/
structure Regs.AtChunk (c : Cfg) (len k : Nat) (x : Regs) : Prop where
  inv : x.loopInvariant c
  done : x.DONE.toNat = min (k * c.PACKET_SIZE) len
  total : x.TOTAL.toNat = len
  lastpct : x.LASTPCT.toNat = percentAt c len k

/-- R162, R163, step 2. -/
theorem atChunk_startRegs {c : Cfg} (hc : c.wf) {len : Nat} (hlen : len ≤ c.CAPACITY) (x : Regs) :
    (startRegs len x).AtChunk c len 0 := by
  obtain ⟨hinv, htotal⟩ := loopInvariant_startRegs hc hlen x
  exact ⟨hinv, by simp [startRegs], htotal, (percentAt_zero c len).symm⟩

theorem Regs.AtChunk.remain {c : Cfg} {len k : Nat} {x : Regs} (h : x.AtChunk c len k) :
    x.REMAIN.toNat = len - k * c.PACKET_SIZE := by
  obtain ⟨⟨-, hsum, -, -⟩, hdone, htotal, -⟩ := h
  omega

/-- R160: while something remains, the registers give chunk `k` of the request. -/
theorem Regs.AtChunk.current {c : Cfg} {len k : Nat} {x : Regs} (h : x.AtChunk c len k) (hk : k * c.PACKET_SIZE < len) :
    x.REMAIN ≠ 0 ∧ x.ADDR = chunkAddr c k ∧ x.DONE.toNat = k * c.PACKET_SIZE ∧ chunkLen c len k = chunkLength c x.REMAIN := by
  have hremain := h.remain
  obtain ⟨⟨hda, -, -, -⟩, hdone, -, -⟩ := h
  rw [Nat.min_eq_left hk.le] at hdone
  refine ⟨fun h0 => ?_, ?_, hdone, by rw [chunkLen, chunkLength, hremain]⟩
  · rw [h0, show (0 : BitVec 32).toNat = 0 from rfl] at hremain
    omega
  · rw [hda, chunkAddr, ← hdone, BitVec.ofNat_toNat, BitVec.setWidth_eq]

/-- R162, R163, step 3: after the last chunk nothing remains. -/
theorem Regs.AtChunk.remain_eq_zero {c : Cfg} (hc : c.wf) {len : Nat} {x : Regs} (h : x.AtChunk c len (chunkCount c len)) :
    x.REMAIN = 0 := by
  have hremain := h.remain
  rw [Nat.sub_eq_zero_of_le (le_chunkCount_mul hc len)] at hremain
  exact BitVec.eq_of_toNat_eq hremain

/-- R162, R163, R166: the registers when the loop of a request is over. -/
theorem Regs.AtChunk.finished {c : Cfg} (hc : c.wf) {len : BitVec 32} {x : Regs}
    (h : x.AtChunk c len.toNat (chunkCount c len.toNat)) :
    x.ADDR = len ∧ x.REMAIN = 0 ∧ x.TOTAL = len ∧ x.DONE = len ∧ (len ≠ 0 → x.LASTPCT = 100) := by
  have hdone : x.DONE = len :=
    BitVec.eq_of_toNat_eq (h.done.trans (Nat.min_eq_right (le_chunkCount_mul hc len.toNat)))
  obtain ⟨haddr, -, -, -⟩ := h.inv
  refine ⟨haddr.trans hdone, h.remain_eq_zero hc, BitVec.eq_of_toNat_eq h.total, hdone, fun hlen => ?_⟩
  exact BitVec.eq_of_toNat_eq (h.lastpct.trans (percentAt_chunkCount hc (BitVec.toNat_ne.1 hlen)))

section
variable {c : Cfg} {len k : Nat} {x : Regs}

/-- R166: what the loop measures after chunk `k`. -/
theorem Regs.AtChunk.percent_next (hc : c.wf) (h : x.AtChunk c len k) (hk : k * c.PACKET_SIZE < len) :
    (nextChunkRegs (chunkLen c len k) x).DONE.toNat = min ((k + 1) * c.PACKET_SIZE) len ∧
      percent (nextChunkRegs (chunkLen c len k) x).DONE.toNat x.TOTAL.toNat = percentAt c len (k + 1) := by
  obtain ⟨hx, -, hdone, hn⟩ := h.current hk
  obtain ⟨-, hnext, -⟩ := loopInvariant_afterChunk hc h.inv hx hn 0
  have hnext : (nextChunkRegs (chunkLen c len k) x).DONE.toNat = min ((k + 1) * c.PACKET_SIZE) len := by
    rw [← add_chunkLen hk, ← hdone]
    exact hnext
  exact ⟨hnext, by rw [hnext, h.total, percent, if_neg (by omega), percentAt]⟩

/-- R166: the report after chunk `k`. -/
theorem Regs.AtChunk.report_next (hc : c.wf) (h : x.AtChunk c len k) (hk : k * c.PACKET_SIZE < len) :
    chunkReport x (chunkLen c len k) = percentReport c len k := by
  obtain ⟨-, hpct⟩ := h.percent_next hc hk
  rw [chunkReport, reportActions, hpct, h.lastpct, percentReport]

/-- R37, R160, R166: the registers after chunk `k`. -/
theorem Regs.AtChunk.next (hc : c.wf) (h : x.AtChunk c len k) (hk : k * c.PACKET_SIZE < len) (status : Byte) :
    (x.afterChunk (chunkLen c len k) status).AtChunk c len (k + 1) := by
  obtain ⟨hx, -, -, hn⟩ := h.current hk
  obtain ⟨hinv, -, -⟩ := loopInvariant_afterChunk hc h.inv hx hn status
  obtain ⟨hdone, hpct⟩ := h.percent_next hc hk
  refine ⟨hinv, hdone, h.total, ?_⟩
  have hle := percentAt_le c len (k + 1)
  calc (BitVec.ofNat 7 (percent (nextChunkRegs (chunkLen c len k) x).DONE.toNat x.TOTAL.toNat)).toNat
      = percentAt c len (k + 1) % 2 ^ 7 := by rw [hpct, BitVec.toNat_ofNat]
    _ = percentAt c len (k + 1) := Nat.mod_eq_of_lt (by omega)

end

end Sys2Proof.Machine
end

section
/-! What the traces of the page operations and of the chunk loops show (R81, R162, R163, R166), and that a script serves them. -/

namespace Sys2Proof.Machine

/-! ## Frames and percentages of a trace -/

@[simp] theorem framesSent_append (op : Byte) (acts more : List Action) :
    framesSent op (acts ++ more) = framesSent op acts ++ framesSent op more := List.filterMap_append

@[simp] theorem progressSent_append (acts more : List Action) :
    progressSent (acts ++ more) = progressSent acts ++ progressSent more := List.filterMap_append

/-- The frames of a trace made of parts. -/
theorem framesSent_flatMap {α : Type} (op : Byte) (xs : List α) (f : α → List Action) :
    framesSent op (xs.flatMap f) = xs.flatMap fun x => framesSent op (f x) := List.filterMap_flatMap

theorem progressSent_flatMap {α : Type} (xs : List α) (f : α → List Action) :
    progressSent (xs.flatMap f) = xs.flatMap fun x => progressSent (f x) := List.filterMap_flatMap

/-- A status read sends neither a program frame nor a read header. -/
theorem framesSent_reading {op : Byte} (hop : op = opPp ∨ op = opRead) (q : Reading) : framesSent op q.actions = [] := by
  rcases hop with rfl | rfl <;> rfl

theorem framesSent_arming {op : Byte} (hop : op = opPp ∨ op = opRead) (q : Arming) : framesSent op q.actions = [] := by
  rcases hop with rfl | rfl <;> rfl

/-- R133: the one program frame of a page write. -/
theorem framesSent_pageRun {op : Byte} (hop : op = opPp ∨ op = opRead) (c : Cfg) (a : BitVec 32) (i : Nat) (chunk : List Byte)
    (q : PageRun) : framesSent op (q.actions c a i chunk) = if op = opPp then [programFrame c a chunk] else [] := by
  have hpolls : framesSent op (q.polls.readings.flatMap Reading.actions) = [] := by
    simp [framesSent_flatMap, framesSent_reading hop]
  rw [PageRun.actions, framesSent_append, framesSent_append, framesSent_arming hop, hpolls]
  rcases hop with rfl | rfl <;> rfl

/-- R134: the one header of a page read. -/
theorem framesSent_readRun {op : Byte} (hop : op = opPp ∨ op = opRead) (a : BitVec 32) (q : ReadRun) :
    framesSent op (q.actions a) = if op = opRead then [readHeader a] else [] := by
  rw [ReadRun.actions, framesSent_append, framesSent_reading hop]
  rcases hop with rfl | rfl <;> rfl

/-- R213: a page write reports no progress. -/
@[simp] theorem progressSent_pageRun (c : Cfg) (a : BitVec 32) (i : Nat) (chunk : List Byte) (q : PageRun) :
    progressSent (q.actions c a i chunk) = [] := by
  have hpolls : progressSent (q.polls.readings.flatMap Reading.actions) = [] := by
    rw [progressSent_flatMap]
    exact List.flatMap_eq_nil_iff.2 fun _ _ => rfl
  rw [PageRun.actions, progressSent_append, hpolls]
  rfl

/-- R213: nor does a page read. -/
@[simp] theorem progressSent_readRun (a : BitVec 32) (q : ReadRun) : progressSent (q.actions a) = [] := rfl

@[simp] theorem framesSent_percentReport (op : Byte) (c : Cfg) (len k : Nat) : framesSent op (percentReport c len k) = [] := by
  unfold percentReport
  split_ifs <;> rfl

/-- R166: the report of an iteration, the percentage having its seven bits. -/
theorem progressSent_percentReport (c : Cfg) (len k : Nat) :
    progressSent (percentReport c len k) = changes (percentAt c len k) [percentAt c len (k + 1)] := by
  have hle := percentAt_le c len (k + 1)
  unfold percentReport
  split_ifs with h
  · simp [changes, h, progressSent]
  · simp [changes, h, progressSent, Nat.mod_eq_of_lt (show percentAt c len (k + 1) < 128 by omega)]

/-- R166: the changes of a list of percentages, the first taken apart. -/
theorem changes_cons (last p : Nat) (ps : List Nat) : changes last (p :: ps) = changes last [p] ++ changes p ps := by
  by_cases h : p = last <;> simp [changes, h]

/-- R166: the reports of the iterations from `k` on are the changes of the percentage. -/
theorem progressSent_iterations {α : Type} {c : Cfg} {len : Nat} {f : α × Nat → List Action}
    (hf : ∀ q, progressSent (f q) = progressSent (percentReport c len q.2)) (qs : List α) (k : Nat) :
    progressSent ((qs.zipIdx k).flatMap f) =
      changes (percentAt c len k) ((List.range' k qs.length).map fun j => percentAt c len (j + 1)) := by
  induction qs generalizing k with
  | nil => rfl
  | cons q qs ih =>
    rw [List.zipIdx_cons, List.flatMap_cons, progressSent_append, hf, progressSent_percentReport, ih, List.length_cons,
      List.range'_succ, List.map_cons, ← changes_cons]

/-- R160: one frame for each iteration from `k` on. -/
theorem framesSent_iterations {α : Type} {op : Byte} {f : α × Nat → List Action} {frame : Nat → List Byte}
    (hf : ∀ q, framesSent op (f q) = [frame q.2]) (qs : List α) (k : Nat) :
    framesSent op ((qs.zipIdx k).flatMap f) = (List.range' k qs.length).map frame := by
  rw [framesSent_flatMap, ← List.zipIdx_map_snd, List.map_map, List.map_eq_flatMap]
  simp [hf]

/-- No frame where no iteration sends one. -/
theorem framesSent_iterations_nil {α : Type} {op : Byte} {f : α × Nat → List Action} (hf : ∀ q, framesSent op (f q) = [])
    (qs : List α) (k : Nat) : framesSent op ((qs.zipIdx k).flatMap f) = [] := by
  rw [framesSent_flatMap]
  exact List.flatMap_eq_nil_iff.2 fun q _ => hf q

/-! ## `WRITE_ALL` -/

@[simp] theorem wbufBytes_length (i n : Nat) (s : State) : (wbufBytes i n s).length = n := readWbuf_length ..

/-- R162: what iteration `k` of `WRITE_ALL` shows, its page run being `q`. -/
def writeIteration (s : State) (len k : Nat) (q : PageRun) : List Action :=
  q.actions s.cfg (chunkAddr s.cfg k) (k * s.cfg.PACKET_SIZE) (wbufBytes (k * s.cfg.PACKET_SIZE) (chunkLen s.cfg len k) s) ++
    percentReport s.cfg len k

/-- R162: what the iterations of `WRITE_ALL` show from chunk `k` on, one page run for each. -/
def writeAllActions (s : State) (len k : Nat) (qs : List PageRun) : List Action :=
  (qs.zipIdx k).flatMap fun q => writeIteration s len q.2 q.1

theorem writeAllActions_cons (s : State) (len k : Nat) (q : PageRun) (qs : List PageRun) :
    writeAllActions s len k (q :: qs) = writeIteration s len k q ++ writeAllActions s len (k + 1) qs := rfl

theorem framesSent_writeIteration {op : Byte} (hop : op = opPp ∨ op = opRead) (s : State) (len k : Nat) (q : PageRun) :
    framesSent op (writeIteration s len k q) = if op = opPp then [programFrame s.cfg (chunkAddr s.cfg k)
      (wbufBytes (k * s.cfg.PACKET_SIZE) (chunkLen s.cfg len k) s)] else [] := by
  rw [writeIteration, framesSent_append, framesSent_pageRun hop, framesSent_percentReport, List.append_nil]

section
variable {s : State} {len : Nat} {qs : List PageRun} (hqs : writeRunsGood s.cfg len qs)
include hqs

theorem framesSent_writeAllActions : framesSent opPp (writeAllActions s len 0 qs) = writeAllFrames s len := by
  obtain ⟨hcount, -⟩ := hqs
  rw [writeAllFrames, List.range_eq_range', ← hcount]
  exact framesSent_iterations (fun q => framesSent_writeIteration (.inl rfl) s len q.2 q.1) qs 0

theorem progressSent_writeAllActions : progressSent (writeAllActions s len 0 qs) = changes 0 (chunkPercents s.cfg len) := by
  obtain ⟨hcount, -⟩ := hqs
  rw [writeAllActions, progressSent_iterations (c := s.cfg) (len := len) (fun q => by simp [writeIteration]), hcount, percentAt_zero,
    chunkPercents_eq]

end

theorem framesSent_opRead_writeAllActions (s : State) (len k : Nat) (qs : List PageRun) :
    framesSent opRead (writeAllActions s len k qs) = [] :=
  framesSent_iterations_nil (fun q => framesSent_writeIteration (.inr rfl) s len q.2 q.1) qs k

/-! ## `READ_ALL` -/

/-- R163, step 6: what the disposal of the bytes of a chunk at index `i` shows. -/
def Sink.actions (i : Nat) (bytes : List Byte) : Sink → List Action
  | .toRbuf => [.memWrite i bytes]
  | .toFF => []
  | .toEQ => [.memRead i bytes.length]

@[simp] theorem framesSent_sinkActions (op : Byte) (i : Nat) (bytes : List Byte) (sink : Sink) :
    framesSent op (sink.actions i bytes) = [] := by
  cases sink <;> rfl

@[simp] theorem progressSent_sinkActions (i : Nat) (bytes : List Byte) (sink : Sink) :
    progressSent (sink.actions i bytes) = [] := by
  cases sink <;> rfl

/-- R163: what iteration `k` of `READ_ALL` shows, its page run being `q`. -/
def readIteration (c : Cfg) (sink : Sink) (len k : Nat) (q : ReadRun) : List Action :=
  q.actions (chunkAddr c k) ++ (sink.actions (k * c.PACKET_SIZE) (q.data.map (swz c)) ++ percentReport c len k)

/-- R163: what the iterations of `READ_ALL` show from chunk `k` on, one page run for each. -/
def readAllActions (c : Cfg) (sink : Sink) (len k : Nat) (qs : List ReadRun) : List Action :=
  (qs.zipIdx k).flatMap fun q => readIteration c sink len q.2 q.1

theorem readAllActions_cons (c : Cfg) (sink : Sink) (len k : Nat) (q : ReadRun) (qs : List ReadRun) :
    readAllActions c sink len k (q :: qs) = readIteration c sink len k q ++ readAllActions c sink len (k + 1) qs := rfl

theorem framesSent_readIteration {op : Byte} (hop : op = opPp ∨ op = opRead) (c : Cfg) (sink : Sink) (len k : Nat)
    (q : ReadRun) : framesSent op (readIteration c sink len k q) = if op = opRead then [readHeader (chunkAddr c k)] else [] := by
  rw [readIteration, framesSent_append, framesSent_append, framesSent_readRun hop, framesSent_sinkActions,
    framesSent_percentReport, List.append_nil, List.append_nil]

section
variable {c : Cfg} {len : Nat} {qs : List ReadRun} (hqs : readRunsGood c len qs) (sink : Sink)
include hqs

theorem framesSent_readAllActions : framesSent opRead (readAllActions c sink len 0 qs) = readAllHeaders c len := by
  obtain ⟨hcount, -⟩ := hqs
  rw [readAllHeaders, List.range_eq_range', ← hcount]
  exact framesSent_iterations (fun q => framesSent_readIteration (.inr rfl) c sink len q.2 q.1) qs 0

theorem progressSent_readAllActions : progressSent (readAllActions c sink len 0 qs) = changes 0 (chunkPercents c len) := by
  obtain ⟨hcount, -⟩ := hqs
  rw [readAllActions, progressSent_iterations (c := c) (len := len) (fun q => by simp [readIteration]), hcount, percentAt_zero,
    chunkPercents_eq]

end

theorem framesSent_opPp_readAllActions (c : Cfg) (sink : Sink) (len k : Nat) (qs : List ReadRun) :
    framesSent opPp (readAllActions c sink len k qs) = [] :=
  framesSent_iterations_nil (fun q => framesSent_readIteration (.inl rfl) c sink len q.2 q.1) qs k

/-! ## Scripts -/

/-- A script serves the calls of a trace made of parts by the answers to each. -/
theorem serves_flatMap_script {α : Type} {c : Cfg} {answers : α → List Answer} {acts : α → List Action} (xs : List α)
    (h : ∀ x k rest, (Oracle.script (answers x ++ rest)).Serves c k (acts x) (.script rest)) (k : Nat) (rest : List Answer) :
    (Oracle.script (xs.flatMap answers ++ rest)).Serves c k (xs.flatMap acts) (.script rest) := by
  induction xs generalizing k with
  | nil => rfl
  | cons x xs ih =>
    simp only [List.flatMap_cons, List.append_assoc]
    exact Oracle.serves_append.2 ⟨_, h x k _, ih _⟩

/-- A report makes no call. -/
@[simp] theorem serves_percentReport_iff {o o' : Oracle} {c : Cfg} {k len j : Nat} :
    o.Serves c k (percentReport c len j) o' ↔ o' = o := by
  unfold percentReport
  split_ifs <;> rfl

/-- Nor does the disposal of a chunk. -/
@[simp] theorem serves_sinkActions_iff {o o' : Oracle} {c : Cfg} {k i : Nat} {bytes : List Byte} {sink : Sink} :
    o.Serves c k (sink.actions i bytes) o' ↔ o' = o := by
  cases sink <;> rfl

/-- R162: a script serves `WRITE_ALL` by the answers to its page runs. -/
theorem serves_writeAll_script (s : State) (k len : Nat) (qs : List PageRun) (rest : List Answer) :
    (Oracle.script (writeAllAnswers s.cfg len qs ++ rest)).Serves s.cfg k (writeAllActions s len 0 qs) (.script rest) := by
  refine serves_flatMap_script (answers := fun q : PageRun × Nat => q.1.answers (chunkLen s.cfg len q.2)) _ (fun q k rest => ?_) k rest
  have hpage := q.1.serves_script s.cfg k (chunkAddr s.cfg q.2) (q.2 * s.cfg.PACKET_SIZE)
    (wbufBytes (q.2 * s.cfg.PACKET_SIZE) (chunkLen s.cfg len q.2) s) rest
  rw [wbufBytes_length] at hpage
  exact Oracle.serves_append.2 ⟨_, hpage, serves_percentReport_iff.2 rfl⟩

/-- R163: a script serves `READ_ALL` by the answers to its page runs. -/
theorem serves_readAll_script (c : Cfg) (sink : Sink) (k len : Nat) (qs : List ReadRun) (rest : List Answer) :
    (Oracle.script (qs.flatMap ReadRun.answers ++ rest)).Serves c k (readAllActions c sink len 0 qs) (.script rest) := by
  have hanswers : qs.flatMap ReadRun.answers = qs.zipIdx.flatMap fun q : ReadRun × Nat => q.1.answers := by
    rw [← List.flatMap_map Prod.fst ReadRun.answers, List.zipIdx_map_fst]
  rw [hanswers]
  refine serves_flatMap_script _ (fun q k rest => ?_) k rest
  exact Oracle.serves_append.2 ⟨_, q.1.serves_script c k _ rest,
    Oracle.serves_append.2 ⟨_, serves_sinkActions_iff.2 rfl, serves_percentReport_iff.2 rfl⟩⟩

end Sys2Proof.Machine
end

section
/-! The two chunk loops from their first step to their last test (R162, R163), against any oracle that serves the page runs:
`WRITE_ALL`, and `READ_ALL` with each of its sinks. -/

namespace Sys2Proof.Machine

/-! ## What the sinks keep (R163) -/

/-- R28: the running conjunctions. -/
def Regs.flags (x : Regs) : Bool × Bool := (x.ALLFF, x.EQ)

/-- The registers with other conjunctions. -/
def Regs.withFlags (x : Regs) (b : Bool × Bool) : Regs := { x with ALLFF := b.1, EQ := b.2 }

/-- R163: the conjunctions after the bytes read, where `WBUF` shows `expected`. -/
def Sink.verdict (expected bytes : List Byte) (b : Bool × Bool) : Sink → Bool × Bool
  | .toRbuf => b
  | .toFF => (b.1 && allErased bytes, b.2)
  | .toEQ => (b.1, b.2 && decide (bytes = expected))

/-- R163: `RBUF` after the bytes read from index `i` on. -/
def Sink.stored (m : Memory) (i : Nat) (bytes : List Byte) : Sink → Memory
  | .toRbuf => m.writeBytes i bytes
  | .toFF | .toEQ => m

/-- R163: the verdict on two chunks in a row is that on their bytes together. -/
theorem Sink.verdict_append {expected bytes : List Byte} (h : bytes.length = expected.length) (expected' bytes' : List Byte)
    (b : Bool × Bool) (sink : Sink) : sink.verdict expected' bytes' (sink.verdict expected bytes b) =
      sink.verdict (expected ++ expected') (bytes ++ bytes') b := by
  cases sink with
  | toRbuf => rfl
  | toFF => simp [Sink.verdict, allErased, Bool.and_assoc]
  | toEQ =>
    have hiff : bytes ++ bytes' = expected ++ expected' ↔ bytes = expected ∧ bytes' = expected' :=
      ⟨fun he => List.append_inj he h, fun ⟨h1, h2⟩ => h1 ▸ h2 ▸ rfl⟩
    simp [Sink.verdict, hiff, Bool.and_assoc]

theorem Sink.stored_append (m : Memory) (i : Nat) (bytes more : List Byte) (sink : Sink) :
    sink.stored (sink.stored m i bytes) (i + bytes.length) more = sink.stored m i (bytes ++ more) := by
  cases sink with
  | toRbuf => exact (Memory.writeBytes_append m i bytes more).symm
  | toFF | toEQ => rfl

/-- A verdict on no byte changes nothing. -/
theorem Sink.verdict_nil (b : Bool × Bool) (sink : Sink) : sink.verdict [] [] b = b := by
  cases sink <;> simp [Sink.verdict, allErased]

theorem Sink.stored_nil (m : Memory) (i : Nat) (sink : Sink) : sink.stored m i [] = m := by
  cases sink <;> rfl

/-! ## The runs of a request -/

/-- R160: only a request of no byte has no chunk. -/
theorem eq_nil_iff_of_length {α : Type} {c : Cfg} (hc : c.wf) {len : Nat} {qs : List α} (h : qs.length = chunkCount c len) :
    qs = [] ↔ len = 0 := by
  rw [← List.length_eq_zero_iff, h, chunkCount_eq_zero_iff hc]

theorem bytesRead_cons (c : Cfg) (q : ReadRun) (qs : List ReadRun) :
    bytesRead c (q :: qs) = q.data.map (swz c) ++ bytesRead c qs := by
  simp [bytesRead]

/-- R160: the chunks from `k` on are the rest of the request. -/
theorem bytesRead_length {c : Cfg} (hc : c.wf) {len k : Nat} {qs : List ReadRun} (hk : k + qs.length = chunkCount c len)
    (hqs : ∀ q ∈ qs.zipIdx k, q.1.good (chunkLen c len q.2)) : (bytesRead c qs).length = len - k * c.PACKET_SIZE := by
  induction qs generalizing k with
  | nil =>
    obtain rfl : k = chunkCount c len := hk
    exact (Nat.sub_eq_zero_of_le (le_chunkCount_mul hc len)).symm
  | cons q qs ih =>
    rw [List.length_cons] at hk
    obtain ⟨hq, hqs⟩ := List.forall_mem_cons.1 hqs
    have hlen : q.data.length = chunkLen c len k := hq.2
    have hnext := add_chunkLen (c := c) (len := len) (k := k) ((lt_chunkCount_iff hc).1 (by omega))
    rw [bytesRead_cons, List.length_append, List.length_map, hlen, ih (k := k + 1) (by omega) hqs]
    omega

/-! ## `WRITE_ALL` -/

/-- R162: the iterations of `WRITE_ALL` from chunk `k` on. -/
theorem runs_writeAllLoop {s : State} {l : Locals} {r : List Activation} {len k : Nat} {qs : List PageRun} {o : Oracle}
    (hc : s.cfg.wf) (hr : s.resetLine = []) (hx : s.x.AtChunk s.cfg len k) (hk : k + qs.length = chunkCount s.cfg len)
    (hqs : ∀ q ∈ qs, q.good s.cfg) (ho : s.oracle.Serves s.cfg s.calls (writeAllActions s len k qs) o) :
    ∃ x' l', Runs (s.withPc (⟨.writeAll, 3, l⟩ :: r))
        ((s.ran (writeAllActions s len k qs) o (if qs = [] then s.chipSelect else .released) x').withPc
          (⟨.writeAll, 3, l'⟩ :: r)) ∧
      x'.AtChunk s.cfg len (chunkCount s.cfg len) ∧ x'.flags = s.x.flags := by
  induction qs generalizing s l k with
  | nil =>
    cases ho
    exact ⟨s.x, l, .of_eq (congrArg (State.withPc · _) s.ran_nil.symm), hk ▸ hx, rfl⟩
  | cons q qs ih =>
    rw [List.length_cons, Nat.add_comm qs.length, ← Nat.add_assoc] at hk
    obtain ⟨hq, hqs⟩ := List.forall_mem_cons.1 hqs
    have hlt : k * s.cfg.PACKET_SIZE < len := (lt_chunkCount_iff hc).1 (by omega)
    obtain ⟨hremain, haddr, hdone, hn⟩ := hx.current hlt
    rw [writeAllActions_cons] at ho ⊢
    obtain ⟨o₁, ho₁, hrest⟩ := Oracle.serves_append.1 ho
    obtain ⟨o₂, hpage, hreport⟩ := Oracle.serves_append.1 ho₁
    obtain rfl := serves_percentReport_iff.1 hreport
    have hchunk := runs_writeChunk (l := l) (r := r) hr hremain hn hq (by rw [haddr, hdone]; exact hpage)
    rw [haddr, hdone, hx.report_next hc hlt] at hchunk
    obtain ⟨x', l', hruns, hend, hflags⟩ := ih
      (s := s.ran _ o₁ .released (s.x.afterChunk (chunkLen s.cfg len k) q.polls.last.byte))
      (l := l.afterChunk s.x (chunkLen s.cfg len k)) hc hr (hx.next hc hlt _) hk hqs hrest
    rw [State.ran_ran] at hruns
    refine ⟨x', l', Runs.trans hchunk (Runs.trans hruns (.of_eq ?_)), hend, hflags⟩
    rw [State.ran_chipSelect, ite_self]
    rfl

/-- R162: `WRITE_ALL` of a request that fits, from its step 1 to the last test of its loop. -/
theorem runs_writeAll {s : State} {l : Locals} {r : List Activation} {qs : List PageRun} {o : Oracle} (hc : s.cfg.wf)
    (hr : s.resetLine = []) (hlen : l.len ≤ s.cfg.CAPACITY) (hqs : writeRunsGood s.cfg l.len qs)
    (ho : s.oracle.Serves s.cfg s.calls (writeAllActions s l.len 0 qs) o) :
    ∃ x' l', Runs (s.withPc (⟨.writeAll, 1, l⟩ :: r))
        ((s.ran (writeAllActions s l.len 0 qs) o (if l.len = 0 then s.chipSelect else .released) x').withPc
          (⟨.writeAll, 3, l'⟩ :: r)) ∧
      x'.AtChunk s.cfg l.len (chunkCount s.cfg l.len) ∧ x'.flags = s.x.flags := by
  obtain ⟨hcount, hgood⟩ := hqs
  simp only [← eq_nil_iff_of_length hc hcount]
  obtain ⟨x', l', hruns, hend, hflags⟩ := runs_writeAllLoop (s := s.withX (startRegs l.len s.x)) (l := l) (r := r) hc hr
    (atChunk_startRegs hc hlen s.x) ((Nat.zero_add _).trans hcount) hgood ho
  exact ⟨x', l', Runs.trans (runs_loopStart (.inl rfl) hr hlen) hruns, hend, hflags⟩

/-! ## `READ_ALL` -/

/-- R163, step 6: the chunk in hand goes to the sink. -/
theorem runs_disposeChunk {s : State} {l : Locals} {r : List Activation} (hr : s.resetLine = []) (hn : l.out.length = l.n) :
    Runs (s.withPc (⟨.readAll, 6, l⟩ :: r))
      (((s.withRbuf (l.sink.stored s.RBUF s.x.DONE.toNat l.out)).ran (l.sink.actions s.x.DONE.toNat l.out) s.oracle s.chipSelect
        (s.x.withFlags (l.sink.verdict (wbufBytes s.x.DONE.toNat l.n s) l.out s.x.flags))).withPc (⟨.readAll, 7, l⟩ :: r)) := by
  have hstep (u : State) : runStep ⟨.readAll, 6, l⟩ u = .next (disposeChunk l u).advance := rfl
  cases hsink : l.sink with
  | toRbuf => exact runs_storeChunk hr hsink
  | toFF =>
    refine Runs.trans (Runs.one hr (hstep _)) (.of_eq ?_)
    simp only [disposeChunk, hsink, Sink.actions, State.ran, List.append_nil]
    rfl
  | toEQ =>
    refine Runs.trans (Runs.one hr (hstep _)) (.of_eq ?_)
    simp only [disposeChunk, hsink, Sink.actions, hn]
    rfl

/-- R163: one iteration of `READ_ALL`, whatever its sink: the next chunk is read by a page run that ends `Ok`, and
goes to the sink. -/
theorem runs_readChunkToSink {s : State} {l : Locals} {r : List Activation} {n : Nat} {q : ReadRun} {o : Oracle}
    (hr : s.resetLine = []) (hx : s.x.REMAIN ≠ 0) (hn : n = chunkLength s.cfg s.x.REMAIN) (hq : q.good n)
    (ho : s.oracle.Serves s.cfg s.calls (q.actions s.x.ADDR) o) :
    Runs (s.withPc (⟨.readAll, 3, l⟩ :: r))
      (((s.withRbuf (l.sink.stored s.RBUF s.x.DONE.toNat (q.data.map (swz s.cfg)))).ran
        (q.actions s.x.ADDR ++ (l.sink.actions s.x.DONE.toNat (q.data.map (swz s.cfg)) ++ chunkReport s.x n)) o
        (if n = 0 then .unknown else .released)
        ((s.x.withFlags (l.sink.verdict (wbufBytes s.x.DONE.toNat n s) (q.data.map (swz s.cfg)) s.x.flags)).afterChunk n
          q.entry.byte)).withPc (⟨.readAll, 3, { l with out := q.data.map (swz s.cfg) }.afterChunk s.x n⟩ :: r)) := by
  have hout : (q.data.map (swz s.cfg)).length = n := by rw [List.length_map, hq.2]
  refine Runs.trans (runs_cutChunk (.inr rfl) hr hx) (Runs.trans (Runs.one hr rfl) ?_)
  rw [← hn]
  refine Runs.trans (runs_readPage (l := readPageArgs s.x.ADDR n) hr hq ho) ?_
  refine Runs.trans (runs_return (v := .bytes (q.data.map (swz s.cfg))) (value := none) hr rfl) ?_
  refine Runs.trans (runs_disposeChunk hr hout) ?_
  refine Runs.trans (runs_nextChunk hr (fun _ _ => rfl) (fun _ _ => rfl) (fun _ _ => rfl) (fun _ _ => rfl)) (.of_eq ?_)
  simp only [State.ran_withRbuf, State.ran_ran, List.append_assoc]
  rfl

/-- R37, R166 say nothing of the conjunctions. -/
theorem Regs.AtChunk.withFlags {c : Cfg} {len k : Nat} {x : Regs} (h : x.AtChunk c len k) (b : Bool × Bool) :
    (x.withFlags b).AtChunk c len k := ⟨h.inv, h.done, h.total, h.lastpct⟩

/-- R163: iteration `k` of `READ_ALL`, whatever its sink. -/
theorem runs_readIteration {s : State} {l : Locals} {r : List Activation} {len k : Nat} {q : ReadRun} {o : Oracle}
    (hc : s.cfg.wf) (hr : s.resetLine = []) (hx : s.x.AtChunk s.cfg len k) (hk : k * s.cfg.PACKET_SIZE < len)
    (hq : q.good (chunkLen s.cfg len k)) (ho : s.oracle.Serves s.cfg s.calls (readIteration s.cfg l.sink len k q) o) :
    ∃ x' l', Runs (s.withPc (⟨.readAll, 3, l⟩ :: r))
        (((s.withRbuf (l.sink.stored s.RBUF s.x.DONE.toNat (q.data.map (swz s.cfg)))).ran
          (readIteration s.cfg l.sink len k q) o .released x').withPc (⟨.readAll, 3, l'⟩ :: r)) ∧
      x'.AtChunk s.cfg len (k + 1) ∧ x'.DONE.toNat = s.x.DONE.toNat + (q.data.map (swz s.cfg)).length ∧ l'.sink = l.sink ∧
      x'.flags = l.sink.verdict (wbufBytes s.x.DONE.toNat (q.data.map (swz s.cfg)).length s) (q.data.map (swz s.cfg))
        s.x.flags := by
  obtain ⟨hremain, haddr, hdone, hn⟩ := hx.current hk
  obtain ⟨o₁, hpage, hquiet⟩ := Oracle.serves_append.1 ho
  obtain ⟨o₂, hsink, hreport⟩ := Oracle.serves_append.1 hquiet
  obtain rfl := serves_sinkActions_iff.1 hsink
  obtain rfl := serves_percentReport_iff.1 hreport
  have hlen : (q.data.map (swz s.cfg)).length = chunkLen s.cfg len k := by rw [List.length_map, hq.2]
  have hchunk := runs_readChunkToSink (l := l) (r := r) hr hremain hn hq (by rw [haddr]; exact hpage)
  rw [haddr, hx.report_next hc hk, if_neg (chunkLen_pos hc hk).ne', ← hlen] at hchunk
  have hx' := (hx.withFlags (l.sink.verdict (wbufBytes s.x.DONE.toNat (q.data.map (swz s.cfg)).length s)
    (q.data.map (swz s.cfg)) s.x.flags)).next hc hk q.entry.byte
  rw [← hlen] at hx'
  have hacts : q.actions (chunkAddr s.cfg k) ++ (l.sink.actions s.x.DONE.toNat (q.data.map (swz s.cfg)) ++
    percentReport s.cfg len k) = readIteration s.cfg l.sink len k q := by rw [readIteration, hdone]
  rw [hacts] at hchunk
  exact ⟨_, _, hchunk, hx', by rw [hx'.done, ← add_chunkLen hk, hdone, hlen], rfl, rfl⟩

/-- R163: the iterations of `READ_ALL` from chunk `k` on. -/
theorem runs_readAllLoop {s : State} {l : Locals} {r : List Activation} {len k : Nat} {qs : List ReadRun} {o : Oracle}
    (hc : s.cfg.wf) (hr : s.resetLine = []) (hx : s.x.AtChunk s.cfg len k) (hk : k + qs.length = chunkCount s.cfg len)
    (hqs : ∀ q ∈ qs.zipIdx k, q.1.good (chunkLen s.cfg len q.2))
    (ho : s.oracle.Serves s.cfg s.calls (readAllActions s.cfg l.sink len k qs) o) :
    ∃ x' l', Runs (s.withPc (⟨.readAll, 3, l⟩ :: r))
        (((s.withRbuf (l.sink.stored s.RBUF s.x.DONE.toNat (bytesRead s.cfg qs))).ran (readAllActions s.cfg l.sink len k qs) o
          (if qs = [] then s.chipSelect else .released) x').withPc (⟨.readAll, 3, l'⟩ :: r)) ∧
      x'.AtChunk s.cfg len (chunkCount s.cfg len) ∧
      x'.flags = l.sink.verdict (wbufBytes s.x.DONE.toNat (bytesRead s.cfg qs).length s) (bytesRead s.cfg qs) s.x.flags := by
  induction qs generalizing s l k with
  | nil =>
    cases ho
    refine ⟨s.x, l, .of_eq ?_, hk ▸ hx, (Sink.verdict_nil _ _).symm⟩
    rw [show bytesRead s.cfg [] = [] from rfl, Sink.stored_nil]
    exact congrArg (State.withPc · _) s.ran_nil.symm
  | cons q qs ih =>
    rw [List.length_cons, Nat.add_comm qs.length, ← Nat.add_assoc] at hk
    rw [readAllActions_cons] at ho ⊢
    obtain ⟨hq, hqs⟩ := List.forall_mem_cons.1 hqs
    obtain ⟨o₁, ho₁, hrest⟩ := Oracle.serves_append.1 ho
    obtain ⟨x₁, l₁, hchunk, hx₁, hdone, hsink, hflags₁⟩ :=
      runs_readIteration (r := r) hc hr hx ((lt_chunkCount_iff hc).1 (by omega)) hq ho₁
    obtain ⟨x', l', hruns, hend, hflags⟩ := ih
      (s := (s.withRbuf (l.sink.stored s.RBUF s.x.DONE.toNat (q.data.map (swz s.cfg)))).ran _ o₁ .released x₁)
      (l := l₁) hc hr hx₁ hk hqs (by rw [hsink]; exact hrest)
    rw [State.ran_withRbuf, State.ran_ran, State.ran_x, State.ran_chipSelect, ite_self, hsink, hdone] at hruns
    refine ⟨x', l', Runs.trans hchunk (Runs.trans hruns (.of_eq ?_)), hend, hflags.trans ?_⟩
    · rw [bytesRead_cons, ← Sink.stored_append]
      rfl
    · rw [bytesRead_cons, List.length_append, wbufBytes_split (Nat.le_add_right _ (bytesRead s.cfg qs).length),
        Nat.add_sub_cancel_left, ← Sink.verdict_append (wbufBytes_length ..).symm, ← hflags₁, State.ran_x, hdone, hsink]
      rfl

/-- R163: `READ_ALL` of a request that fits, from its step 1 to the last test of its loop. -/
theorem runs_readAll {s : State} {l : Locals} {r : List Activation} {qs : List ReadRun} {o : Oracle} (hc : s.cfg.wf)
    (hr : s.resetLine = []) (hlen : l.len ≤ s.cfg.CAPACITY) (hqs : readRunsGood s.cfg l.len qs)
    (ho : s.oracle.Serves s.cfg s.calls (readAllActions s.cfg l.sink l.len 0 qs) o) :
    ∃ x' l', Runs (s.withPc (⟨.readAll, 1, l⟩ :: r))
        (((s.withRbuf (l.sink.stored s.RBUF 0 (bytesRead s.cfg qs))).ran (readAllActions s.cfg l.sink l.len 0 qs) o
          (if l.len = 0 then s.chipSelect else .released) x').withPc (⟨.readAll, 3, l'⟩ :: r)) ∧
      x'.AtChunk s.cfg l.len (chunkCount s.cfg l.len) ∧
      x'.flags = l.sink.verdict (wbufBytes 0 l.len s) (bytesRead s.cfg qs) s.x.flags := by
  obtain ⟨hcount, hgood⟩ := hqs
  simp only [← eq_nil_iff_of_length hc hcount]
  have hcount := (Nat.zero_add _).trans hcount
  obtain ⟨x', l', hruns, hend, hflags⟩ := runs_readAllLoop (s := s.withX (startRegs l.len s.x)) (l := l) (r := r) hc hr
    (atChunk_startRegs hc hlen s.x) hcount hgood ho
  rw [State.withX_cfg, bytesRead_length hc hcount hgood, Nat.zero_mul] at hflags
  exact ⟨x', l', Runs.trans (runs_loopStart (.inr rfl) hr hlen) hruns, hend, hflags⟩

/-- R162, R163, step 3: with nothing left a called loop returns. -/
theorem runs_loopReturn {s : State} {c : Routine} {l : Locals} {g : Activation} {r : List Activation}
    (hc : c = .writeAll ∨ c = .readAll) (hr : s.resetLine = []) (hx : s.x.REMAIN = 0) :
    Runs (s.withPc (⟨c, 3, l⟩ :: g :: r)) (s.withPc (g.resume .void :: r)) := by
  have htest (u : State) : runStep ⟨c, 3, l⟩ u = loopTest u := by rcases hc with rfl | rfl <;> rfl
  exact runs_return (v := .void) (value := none) hr ((htest _).trans (if_pos hx))

/-- R168: a routine that calls `WRITE_ALL` for a request that fits goes on. -/
theorem runs_callWriteAll {s : State} {c : Routine} {k len : Nat} {l : Locals} {r : List Activation} {qs : List PageRun}
    {o : Oracle} (hc : s.cfg.wf) (hr : s.resetLine = []) (hlen : len ≤ s.cfg.CAPACITY) (hqs : writeRunsGood s.cfg len qs)
    (hcall : runStep ⟨c, k, l⟩ (s.withPc (⟨c, k, l⟩ :: r)) =
      .next ((s.withPc (⟨c, k, l⟩ :: r)).call .writeAll { len := len }))
    (ho : s.oracle.Serves s.cfg s.calls (writeAllActions s len 0 qs) o) :
    ∃ x', Runs (s.withPc (⟨c, k, l⟩ :: r))
        ((s.ran (writeAllActions s len 0 qs) o (if len = 0 then s.chipSelect else .released) x').withPc (⟨c, k + 1, l⟩ :: r)) ∧
      x'.flags = s.x.flags := by
  obtain ⟨x', l', hruns, hend, hflags⟩ := runs_writeAll (l := { len := len }) (r := ⟨c, k, l⟩ :: r) hc hr hlen hqs ho
  exact ⟨x', (Runs.one hr hcall).trans (hruns.trans (runs_loopReturn (.inl rfl) hr (hend.remain_eq_zero hc))), hflags⟩

/-- R168: a routine that calls `READ_ALL` for a request that fits goes on. -/
theorem runs_callReadAll {s : State} {c : Routine} {k len : Nat} {l : Locals} {r : List Activation} {sink : Sink}
    {qs : List ReadRun} {o : Oracle} (hc : s.cfg.wf) (hr : s.resetLine = []) (hlen : len ≤ s.cfg.CAPACITY)
    (hqs : readRunsGood s.cfg len qs)
    (hcall : runStep ⟨c, k, l⟩ (s.withPc (⟨c, k, l⟩ :: r)) =
      .next ((s.withPc (⟨c, k, l⟩ :: r)).call .readAll (readAllArgs len sink)))
    (ho : s.oracle.Serves s.cfg s.calls (readAllActions s.cfg sink len 0 qs) o) :
    ∃ x', Runs (s.withPc (⟨c, k, l⟩ :: r))
        (((s.withRbuf (sink.stored s.RBUF 0 (bytesRead s.cfg qs))).ran (readAllActions s.cfg sink len 0 qs) o
          (if len = 0 then s.chipSelect else .released) x').withPc (⟨c, k + 1, l⟩ :: r)) ∧
      x'.flags = sink.verdict (wbufBytes 0 len s) (bytesRead s.cfg qs) s.x.flags := by
  obtain ⟨x', l', hruns, hend, hflags⟩ := runs_readAll (l := readAllArgs len sink) (r := ⟨c, k, l⟩ :: r) hc hr hlen hqs ho
  exact ⟨x', (Runs.one hr hcall).trans (hruns.trans (runs_loopReturn (.inr rfl) hr (hend.remain_eq_zero hc))), hflags⟩

end Sys2Proof.Machine
end

section
/-! The chunking and verify operations as a whole (R162 to R165): each accepted in IDLE and run to its `Done` against a script. -/

namespace Sys2Proof.Machine

/-! ## `WRITE_ALL` and `READ_ALL` -/

/-- Settles O23: an accepted `WRITE_ALL` runs through its iterations, whose last test ends it. -/
theorem writeAllProgramsEveryChunk : Obligations.WriteAllProgramsEveryChunk := by
  unfold Obligations.WriteAllProgramsEveryChunk
  intro s len runs rest hp hr hc hlen hqs ho
  obtain ⟨x', l', hruns, hend, hflags⟩ := runs_writeAll (l := { len := len.toNat }) (r := []) hc hr hlen hqs
    (ho ▸ serves_writeAll_script s s.calls len.toNat runs rest)
  obtain ⟨haddr, hremain, htotal, hdone, hpct⟩ := hend.finished hc
  have hall := hruns.trans (runs_loopEnd (.inl rfl) hr hremain)
  exact ⟨_, writeAllActions s len.toNat 0 runs, .of_runs (accept_of_idle hp _ _) (by simp) hall rfl,
    finish_endsAs ⟨rfl, rfl, rfl, rfl⟩ rfl, rfl, haddr, hremain, htotal, hdone, hpct, congrArg Prod.fst hflags,
    congrArg Prod.snd hflags, rfl, fun hne => if_neg (BitVec.toNat_ne.1 hne), framesSent_writeAllActions hqs,
    progressSent_writeAllActions hqs⟩

/-- Settles O24: an accepted `READ_ALL` runs through its iterations, each of which stores its chunk, and its last test ends it. -/
theorem readAllFillsTheBuffer : Obligations.ReadAllFillsTheBuffer := by
  unfold Obligations.ReadAllFillsTheBuffer
  intro s len runs rest hp hr hc hrbuf hlen hqs ho
  obtain ⟨x', l', hruns, hend, hflags⟩ := runs_readAll (l := readAllArgs len.toNat .toRbuf) (r := []) hc hr hlen hqs
    (ho ▸ serves_readAll_script s.cfg .toRbuf s.calls len.toNat runs rest)
  obtain ⟨haddr, hremain, htotal, hdone, hpct⟩ := hend.finished hc
  have hall := hruns.trans (runs_loopEnd (.inr rfl) hr hremain)
  refine ⟨_, readAllActions s.cfg .toRbuf len.toNat 0 runs, .of_runs (accept_of_idle hp _ _) (by simp) hall rfl,
    finish_endsAs ⟨rfl, rfl, rfl, rfl⟩ rfl, rfl, haddr, hremain, htotal, hdone, hpct, congrArg Prod.fst hflags,
    congrArg Prod.snd hflags, fun hne => if_neg (BitVec.toNat_ne.1 hne), fun k => ?_, framesSent_readAllActions hqs .toRbuf,
    progressSent_readAllActions hqs .toRbuf⟩
  have hbytes : (bytesRead s.cfg runs).length = len.toNat := by
    simpa using bytesRead_length hc ((Nat.zero_add _).trans hqs.1) hqs.2
  refine (Memory.read_writeBytes hrbuf 0 k (bytesRead s.cfg runs)).trans ?_
  simp [hbytes]

/-! ## `IS_EMPTY` -/

theorem swz_eq_erased_iff (c : Cfg) (b : Byte) : swz c b = 0xFF#8 ↔ b = 0xFF#8 := by
  have hfixed : swz c 0xFF#8 = 0xFF#8 := by
    unfold swz
    split_ifs <;> decide
  refine ⟨fun h => ?_, fun h => h ▸ hfixed⟩
  rw [← swz_swz c b, h, hfixed]

/-- R13, R145: the erased sentinel reads the same in either bit-swap mode. -/
theorem allErased_bytesRead (c : Cfg) (qs : List ReadRun) :
    allErased (bytesRead c qs) = decide (∀ b ∈ qs.flatMap ReadRun.data, b = 0xFF) := by
  rw [allErased, bytesRead, List.all_map, List.all_eq, decide_eq_decide]
  simp only [Function.comp_apply, beq_iff_eq, swz_eq_erased_iff]
  rfl

/-- Settles O25: an accepted `IS_EMPTY` calls `READ_ALL` of the capacity with the sink `TO_FF` and ends with
what the sink kept. -/
theorem isEmptyAnswersWhetherAllErased : Obligations.IsEmptyAnswersWhetherAllErased := by
  unfold Obligations.IsEmptyAnswersWhetherAllErased
  intro s runs rest hp hr hc hqs ho
  obtain ⟨x', hruns, hflags⟩ := runs_callReadAll (s := s.withX { s.x with ALLFF := true }) (c := .isEmpty) (k := 2) (l := {})
    (r := []) (sink := .toFF) hc hr le_rfl hqs rfl
    (by exact ho ▸ serves_readAll_script s.cfg .toFF s.calls s.cfg.CAPACITY runs rest)
  have hall := (Runs.one (s := s) (f := ⟨.isEmpty, 1, {}⟩) (r := []) hr rfl).trans (hruns.trans (Runs.one hr rfl))
  have hflag : x'.ALLFF = decide (∀ b ∈ runs.flatMap ReadRun.data, b = 0xFF) := by
    rw [← allErased_bytesRead s.cfg]
    exact congrArg Prod.fst hflags
  have hpos : s.cfg.CAPACITY ≠ 0 := Nat.ne_of_gt (Nat.le_trans hc.1 hc.2.1)
  rw [← hflag]
  exact ⟨_, readAllActions s.cfg .toFF s.cfg.CAPACITY 0 runs, .of_runs (accept_of_idle hp _ _) (by simp) hall rfl,
    finish_endsAs ⟨rfl, rfl, rfl, rfl⟩ rfl, rfl, rfl, congrArg Prod.snd hflags, if_neg hpos,
    framesSent_readAllActions hqs .toFF⟩

/-! ## `PROGRAM_AND_VERIFY` -/

/-- R165, step 1: the erase comes first, whatever the length of the image. -/
theorem runs_eraseFirst {s : State} {l : Locals} {e : EraseRun} {o : Oracle} (hr : s.resetLine = []) (he : e.good s.cfg)
    (ho : s.oracle.Serves s.cfg s.calls (e.actions s.cfg) o) :
    Runs (s.withPc [⟨.programAndVerify, 1, l⟩])
      ((s.ran (e.actions s.cfg) o .released { s.x with STATUS := e.polls.last.byte }).withPc [⟨.programAndVerify, 2, l⟩]) := by
  refine Runs.trans (Runs.one hr rfl) (Runs.trans (runs_bulkErase hr he ho) ?_)
  exact runs_return (v := .void) (value := none) hr rfl

/-- R165: `PROGRAM_AND_VERIFY` of an image that fits, from its step 1 to its step 5: the erase, `WRITE_ALL`, and `READ_ALL` with
the sink `TO_EQ`. -/
theorem runs_programAndVerify {s : State} {l : Locals} {e : EraseRun} {ws : List PageRun} {rs : List ReadRun} {o : Oracle}
    (hc : s.cfg.wf) (hr : s.resetLine = []) (hlen : l.len ≤ s.cfg.CAPACITY) (he : e.good s.cfg)
    (hws : writeRunsGood s.cfg l.len ws) (hrs : readRunsGood s.cfg l.len rs)
    (ho : s.oracle.Serves s.cfg s.calls
      (e.actions s.cfg ++ (writeAllActions s l.len 0 ws ++ readAllActions s.cfg .toEQ l.len 0 rs)) o) :
    ∃ x', Runs (s.withPc [⟨.programAndVerify, 1, l⟩])
        ((s.ran (e.actions s.cfg ++ (writeAllActions s l.len 0 ws ++ readAllActions s.cfg .toEQ l.len 0 rs)) o .released
          x').withPc [⟨.programAndVerify, 5, l⟩]) ∧
      x'.flags = (s.x.ALLFF, decide (bytesRead s.cfg rs = wbufBytes 0 l.len s)) := by
  obtain ⟨o₁, ho₁, ho⟩ := Oracle.serves_append.1 ho
  obtain ⟨o₂, ho₂, ho₃⟩ := Oracle.serves_append.1 ho
  obtain ⟨x₁, hwrite, hflags₁⟩ := runs_callWriteAll (c := .programAndVerify) (k := 2) (l := l) (r := [])
    (s := s.ran (e.actions s.cfg) o₁ .released { s.x with STATUS := e.polls.last.byte }) hc hr hlen hws rfl ho₂
  rw [State.ran_ran, State.ran_chipSelect, ite_self] at hwrite
  obtain ⟨x₂, hread, hflags₂⟩ := runs_callReadAll (c := .programAndVerify) (k := 4) (l := l) (r := []) (sink := .toEQ)
    (s := s.ran (e.actions s.cfg ++ writeAllActions s l.len 0 ws) o₂ .released { x₁ with EQ := true }) hc hr hlen hrs rfl
    (by rw [State.ran_calls, calls_append, List.length_append, ← Nat.add_assoc]; exact ho₃)
  rw [State.ran_withRbuf, State.ran_ran, State.ran_chipSelect, ite_self, List.append_assoc] at hread
  have hallff : x₁.ALLFF = s.x.ALLFF := congrArg Prod.fst hflags₁
  refine ⟨x₂, ?_, hflags₂.trans ?_⟩
  · refine (runs_eraseFirst hr he ho₁).trans (hwrite.trans (Runs.trans (Runs.one hr rfl) ?_))
    exact hread
  · simp [Sink.verdict, Regs.flags, hallff]

/-- R165, R246: with an image that does not fit, the size check of `WRITE_ALL` raises its error after the erase. -/
theorem runs_oversizedImage {s : State} {l : Locals} {e : EraseRun} {o : Oracle} (hr : s.resetLine = [])
    (hlen : s.cfg.CAPACITY < l.len) (he : e.good s.cfg) (ho : s.oracle.Serves s.cfg s.calls (e.actions s.cfg) o) :
    Runs (s.withPc [⟨.programAndVerify, 1, l⟩])
      (raise .sizeExceeded ((s.ran (e.actions s.cfg) o .released { s.x with STATUS := e.polls.last.byte }).withPc
        [⟨.writeAll, 1, { len := l.len }⟩, ⟨.programAndVerify, 2, l⟩])) := by
  refine (runs_eraseFirst hr he ho).trans (Runs.trans (Runs.one hr rfl) (Runs.one hr ?_))
  exact (runStep_checkSize (.inl rfl) _ _).trans (if_pos hlen)

/-- Settles O26: an image that fits is compared by the sink of `READ_ALL`; one that does not costs the erase. -/
theorem programAndVerifyComparesTheImage : Obligations.ProgramAndVerifyComparesTheImage := by
  unfold Obligations.ProgramAndVerifyComparesTheImage
  intro s len e hp hr hc he
  have haccept := accept_of_idle hp .programAndVerify { len := len.toNat }
  refine ⟨fun ws rs rest hlen hws hrs ho => ?_, fun rest hlen ho => ?_⟩
  · have hserves : s.oracle.Serves s.cfg s.calls (e.actions s.cfg ++
        (writeAllActions s len.toNat 0 ws ++ readAllActions s.cfg .toEQ len.toNat 0 rs)) (.script rest) := by
      rw [ho]
      exact Oracle.serves_append.2 ⟨_, e.serves_script s.cfg _ _, Oracle.serves_append.2
        ⟨_, serves_writeAll_script s _ len.toNat ws _, serves_readAll_script s.cfg .toEQ _ len.toNat rs rest⟩⟩
    obtain ⟨x', hruns, hflags⟩ := runs_programAndVerify (l := { len := len.toNat }) hc hr hlen he hws hrs hserves
    have heq : x'.EQ = decide (bytesRead s.cfg rs = wbufBytes 0 len.toNat s) := congrArg Prod.snd hflags
    rw [← heq]
    refine ⟨_, writeAllActions s len.toNat 0 ws ++ readAllActions s.cfg .toEQ len.toNat 0 rs,
      .of_runs haccept (by simp) (hruns.trans (Runs.one hr rfl)) rfl, finish_endsAs ⟨rfl, rfl, rfl, rfl⟩ rfl, rfl, rfl,
      congrArg Prod.fst hflags, rfl, ?_, ?_⟩
    · rw [framesSent_append, framesSent_writeAllActions hws, framesSent_opPp_readAllActions, List.append_nil]
    · rw [framesSent_append, framesSent_readAllActions hrs, framesSent_opRead_writeAllActions, List.nil_append]
  · have hraise := runs_oversizedImage (l := { len := len.toNat }) hr hlen he (ho ▸ e.serves_script s.cfg s.calls rest)
    exact ⟨_, .of_runs haccept (by simp) hraise rfl, raise_endsAs ⟨rfl, rfl, rfl, rfl⟩ rfl, rfl, raise_sizeExceeded_RBUF _⟩

end Sys2Proof.Machine
end

section
/-! Errors and the wait event: which action of a step of the running activation needs which numbered step of the pseudocode
(R190, R214), and what the step that raises an error does (R198, R202). -/

namespace Sys2Proof.Machine

/-! ## Errors (R190, R198, R202) -/

/-- Settles O31: the one step at which the table has an error is `raise`, which empties the stack whatever stands on it. -/
theorem errorEndsTheOperationAtAnyDepth : Obligations.ErrorEndsTheOperationAtAnyDepth := by
  unfold Obligations.ErrorEndsTheOperationAtAnyDepth
  intro s f r e hp hr he
  have hstep : step s = .next (raise e s) := (step_running hp hr).trans (runStep_of_errorAt he)
  exact ⟨_, hstep, raise_endsAs (.refl s) (List.append_nil _).symm, rfl, rfl, rfl, rfl⟩

/-! ## The actions that name their step -/

/-- R190, R214: activation `f` stands at the step an action comes from, where the spec names that step: a `Spin` comes from the wait
loop of `BULK_ERASE`, a `Done` with an error from a row of the table of errors. -/
def Action.dueAt (c : Cfg) (f : Activation) : Action → Prop
  | .emit .spin => f.routine = .bulkErase ∧ f.step = 10
  | .done (.fail e) _ _ => errorAt c f = some e
  | .emit (.progress _) | .done .ok _ _ => True
  | .write _ _ _ _ _ | .read _ _ _ _ _ _ | .delay _ | .memRead _ _ | .memWrite _ _ => True

/-- The trace of `t` is that of `s` and then actions that are due at `f`. -/
def AddsOnlyDueActions (f : Activation) (s t : State) : Prop :=
  ∃ acts, t.trace = s.trace ++ acts ∧ ∀ a ∈ acts, a.dueAt s.cfg f

theorem AddsOnlyDueActions.of_no_action {f : Activation} {s t : State} (ht : t.trace = s.trace) : AddsOnlyDueActions f s t :=
  ⟨[], by simp [ht], by simp⟩

theorem AddsOnlyDueActions.of_one_action {f : Activation} {s t : State} {a : Action} (ht : t.trace = s.trace ++ [a])
    (ha : a.dueAt s.cfg f) : AddsOnlyDueActions f s t :=
  ⟨[a], ht, List.forall_mem_singleton.2 ha⟩

/-- Whichever way the actions of the step are split off the trace, each of them is due. -/
theorem AddsOnlyDueActions.dueAt_of_mem {f : Activation} {s t : State} (h : AddsOnlyDueActions f s t) {acts : List Action}
    (ht : t.trace = s.trace ++ acts) {a : Action} (ha : a ∈ acts) : a.dueAt s.cfg f := by
  obtain ⟨acts', ht', hdue⟩ := h
  exact hdue a (List.append_cancel_left (ht'.symm.trans ht) ▸ ha)

/-- R53: a transport write adds its own call, or nothing while it does not return. -/
theorem xferWrite_addsOnlyDueActions (f : Activation) (bytes : List Byte) (csA csR : Bool) (s : State) :
    AddsOnlyDueActions f s (xferWrite bytes csA csR s) := by
  rcases xferWrite_cases bytes csA csR s with hw | ⟨cnt, ok, data, o, -, hw⟩ <;> rw [hw]
  · exact .of_no_action rfl
  · exact .of_one_action rfl trivial

/-- R190, R214: no move makes an action that is not due: `spins` alone emits `Spin`, and `fails` alone ends with an error. -/
theorem Moves.addsOnlyDueActions {f : Activation} {r : List Activation} {s t : State} (h : Moves f r s t) :
    AddsOnlyDueActions f s t := by
  cases h with
  | spins hrt hk => exact .of_one_action rfl ⟨hrt, hk⟩
  | fails e he => exact .of_one_action rfl he
  | sends bytes i _ _ hd he =>
    obtain ⟨sent, rfl⟩ := exec_decodedFrame hd he
    exact xferWrite_addsOnlyDueActions ..
  | endsPage => exact ⟨[.memWrite 0 f.loc.out, .done .ok none none], by simp, by simp [Action.dueAt]⟩
  | receives | delays | reports | reads | stores | toEQ | ends | endsWithFlag => exact .of_one_action rfl trivial
  | waits | passes | builds | swaps | cuts | measures | ready | loops | silent | jumps | latches | starts | advances
  | toFF | blank | equal | calls | returns => exact .of_no_action rfl

/-- The same of a step of the machine with an activation running and reset quiet. -/
theorem step_addsOnlyDueActions {s t : State} {f : Activation} {r : List Activation} (hp : s.pc = f :: r)
    (hr : s.resetLine = []) (h : step s = .next t) : AddsOnlyDueActions f s t :=
  (runStep_moves hp ((step_running hp hr).symm.trans h)).addsOnlyDueActions

/-- Settles O32: a `Done` with an error is due only where the table names the step. -/
theorem errorsAreRaisedNowhereElse : Obligations.ErrorsAreRaisedNowhereElse := by
  unfold Obligations.ErrorsAreRaisedNowhereElse
  intro s t f r e v b hp hr h ht
  exact (step_addsOnlyDueActions hp hr h).dueAt_of_mem ht (List.mem_singleton_self _)

/-! ## `Spin` (R214) -/

/-- R132, step 10: the step of the wait loop emits `Spin` and goes on, whatever the state. -/
theorem runStep_erasePoll (s : State) {f : Activation} (hrt : f.routine = .bulkErase) (hk : f.step = 10) :
    runStep f s = .next (emit .spin s).advance := by
  obtain ⟨c, k, l⟩ := f
  subst hrt hk
  rfl

/-- Settles O30: `Spin` is due only at that step, and that step adds it and nothing else. -/
theorem spinComesFromTheErasePollOnly : Obligations.SpinComesFromTheErasePollOnly := by
  unfold Obligations.SpinComesFromTheErasePollOnly
  intro s t f r hp hr h
  have hspin (hrt : f.routine = .bulkErase) (hk : f.step = 10) : t.trace = s.trace ++ [.emit .spin] := by
    rw [step_running hp hr, runStep_erasePoll s hrt hk] at h
    cases h
    rfl
  refine ⟨⟨?_, ?_⟩, hspin⟩
  · rintro ⟨acts, ht, hmem⟩
    exact (step_addsOnlyDueActions hp hr h).dueAt_of_mem ht hmem
  · rintro ⟨hrt, hk⟩
    exact ⟨_, hspin hrt hk, List.mem_singleton_self _⟩

end Sys2Proof.Machine
end

section
/-! A call that never returns (R232, R252): without reset it holds the block, and a reset drops it with the operation that made it. -/

namespace Sys2Proof.Machine

/-! ## The step of an activation that makes a call -/

/-- R55: the step of an activation that receives is a read phase. -/
theorem runStep_of_receiving {f : Activation} (hf : f.receiving = true) (s : State) : ∃ n, runStep f s = readPhase n s := by
  obtain ⟨c, k, l⟩ := f
  unfold Activation.receiving at hf
  split at hf
  case h_1 hc hk | h_2 hc hk | h_3 hc hk =>
    cases hc
    cases hk
    exact ⟨_, rfl⟩
  case h_4 => cases hf

/-- R65: what a call of a sound activation does is `exec` of a frame, or a read phase. -/
theorem runStep_of_makesCall {f : Activation} {s : State} (hf : f.sound s) (hcall : f.makesCall = true) :
    (∃ i, i.isFrame = true ∧ runStep f s = exec i s) ∨ ∃ n, runStep f s = readPhase n s := by
  rcases Bool.or_eq_true_iff.1 hcall with hsends | hreceives
  · obtain ⟨bytes, ho⟩ := Option.isSome_iff_exists.1 hsends
    obtain ⟨i, hd⟩ := decodes_of_outgoing hf ho
    exact .inl ⟨i, isFrame_of_decodeFrame hd, by simp only [runStep, ho, hd]⟩
  · exact .inr (runStep_of_receiving hreceives s)

/-- R252: while the call does not return, the step of a sound activation that makes it changes nothing. -/
theorem runStep_of_neverReturns {f : Activation} {s : State} {rest : List Answer} (hf : f.sound s) (hcall : f.makesCall = true)
    (ho : s.oracle = .script (.neverReturns :: rest)) : runStep f s = .next s := by
  obtain ⟨hframe, hread⟩ := callThatNeverReturnsHoldsTheBlock s rest ho
  rcases runStep_of_makesCall hf hcall with ⟨i, hi, hrun⟩ | ⟨n, hrun⟩ <;> rw [hrun]
  · exact hframe i hi
  · exact hread n

/-! ## Reset during the call -/

/-- R230: while the reset input is asserted, a step is the reset. -/
theorem step_of_resetLine {s : State} {l : List Bool} (hr : s.resetLine = true :: l) :
    step s = .next (assertReset (s.withResetLine l)) := by
  simp only [step, hr]

/-- R232: a reset during a call that never returns leaves the answers that the script holds after it. -/
theorem assertReset_oracle_of_neverReturns {s : State} {f : Activation} {r : List Activation} {rest : List Answer}
    (hp : s.pc = f :: r) (hcall : f.makesCall = true) (ho : s.oracle = .script (.neverReturns :: rest)) :
    (assertReset s).oracle = .script rest := by
  rw [assertReset_oracle_running hp, ho, hcall, Oracle.forget_hung]

/-- Settles O50: the held step is that of the running activation, which a sound control state makes sound; the reset drops the call. -/
theorem resetEndsACallThatNeverReturns : Obligations.ResetEndsACallThatNeverReturns := by
  unfold Obligations.ResetEndsACallThatNeverReturns
  intro s f r rest hp hcall ho
  refine ⟨fun hr hs => ?_, fun l hr => ?_⟩
  · obtain ⟨hf, -⟩ := stackSound_cons.1 (hp ▸ hs : stackSound s (f :: r))
    exact (step_running hp hr).trans (runStep_of_neverReturns hf hcall ho)
  · exact ⟨_, step_of_resetLine hr, rfl, rfl,
      assertReset_oracle_of_neverReturns (s := s.withResetLine l) hp hcall ho, rfl⟩

end Sys2Proof.Machine
end

section
/-! The vectors of 95_test_vectors.md sections 2.1, 2.2 and 2.4 that are written out as words and frames. -/

namespace Sys2Proof.Machine

/-- Settles O5: the operation code and the fields of each word are computed, with the laws of `REVERSE_BITS` and of a reserved code; the
two frames are `ppFrame` and `readFrame` of the address and payload they carry, whose decoding is known. -/
theorem wordsOfTheSpecDecode : Obligations.WordsOfTheSpecDecode := by
  unfold Obligations.WordsOfTheSpecDecode
  refine ⟨?writePage, ?readPage, ?reverseBits, ?writeAll, ?bulkErase, ?reserved, ?program, ?read⟩
  case writePage | readPage | writeAll | bulkErase => rfl
  case reverseBits => exact decodeCommand_reverseBits (w := 0x07000000FFFFFF01) rfl
  case reserved => exact decodeCommand_reserved (w := 0x0C00000000000000) (by decide)
  case program => exact decodeFrame_ppFrame 0x012345 [0xDE, 0xAD]
  case read => exact decodeFrame_readFrame 0x3FFF00

end Sys2Proof.Machine
end
